-- ==== Sys2Proof/Word.lean ====
section
/-! DEFINITION. The word types of the block: every value is an unsigned integer of a stated width, a boolean or a
member of a named enumeration (R7). Bit 0 is the least significant bit of a value. -/

namespace Sys2Proof

/-- A register value, a packet byte, a byte on the bus (R5; the width is `Machine.doc.dataW`). -/
abbrev Byte := BitVec 8

/-- A RegisterAddress: a value naming a sensor register (R5, R31; the width is `Machine.doc.addrW`). -/
abbrev RegAddr := BitVec 7

/-- A command word at the RPE's port (format CMD16, R51). -/
abbrev Cmd16 := BitVec 16

/-- A touch packet at the TRD's port as one word `P`, `raw[i] = P[8i+7 : 8i]` (format PKT48, R58). -/
abbrev Packet := BitVec 48

/-- The level of the data-ready pin, 0 or 1 (format PIN1, R62). -/
abbrev Level := BitVec 1

/-- A command word at the SLC's port (format LC2, R61). -/
abbrev LcWord := BitVec 2

/-- A field of a PositionReport of 16 bits (R60). -/
abbrev Half := BitVec 16

end Sys2Proof
end

