-- ==== Sys2Proof/Config.lean ====
section
/-! DEFINITION. What is fixed for a whole run and what the environment chooses: the record of DOC's constants (R5),
the record of the open parameters (R6), the answers of the oracle (R44), and the free values. The VALUES of the
constants and of the parameters' defaults stand in Machine/Params.lean, so that a corrected literal changes one
place. A free value is an opaque constant with no body: nothing in Lean can evaluate it. -/

namespace Sys2Proof.Config

/-- The constants DOC fixes, in one record (R5). -/
structure DocConstants where
  /-- ADDR_W, the width of a RegisterAddress in bits; `RegAddr` is the type of this width -/
  addrW : Nat
  /-- DATA_W, the width of a register value in bits; `Byte` is the type of this width -/
  dataW : Nat
  /-- direction mask of a register write -/
  writeMask : Byte
  /-- direction mask of a register read -/
  readMask : Byte
  /-- bytes fetched by one `readRegister` -/
  rdBurst : Nat
  /-- minimum inter-phase settling delay, in time units -/
  tSettle : Nat
  /-- delay after clearing the status flags, in time units -/
  tPostClear : Nat
  /-- the bus primitive's bound on one executed session, in milliseconds -/
  tDeadlineMs : Nat
  firmverReg : RegAddr
  statusReg : RegAddr
  statusClearVal : Byte
  feedEnableReg : RegAddr
  feedEnableVal : Byte
  /-- maximum raw X; used by no computation (R106) -/
  pinnacleXMax : Half
  /-- maximum raw Y; used by no computation (R107) -/
  pinnacleYMax : Half
  xLower : Half
  xUpper : Half
  yLower : Half
  yUpper : Half
  deriving DecidableEq, Repr

/-- Four bits of one packet byte, from bit `lo` upwards. -/
structure Nibble where
  byte : Fin 6
  lo : Fin 5
  deriving DecidableEq, Repr

/-- PKT_LAYOUT: the positions of the packet's fields, one configuration value (R58, R6). -/
structure PktLayout where
  /-- the status/button byte -/
  status : Fin 6
  /-- raw X, bits 7:0 -/
  xLow : Fin 6
  /-- raw Y, bits 7:0 -/
  yLow : Fin 6
  /-- raw X, bits 11:8 -/
  xHigh : Nibble
  /-- raw Y, bits 11:8 -/
  yHigh : Nibble
  /-- raw Z -/
  zByte : Fin 6
  deriving DecidableEq, Repr

/-- The parameters DOC leaves open (R6): fixed for the whole run, any value between runs. BURST_RULE is a function of
the environment and "belongs to the sensor, not the block" (R6, R47): it is the argument of the environment premise
`Machine.EchoAnswer`, with the default `Machine.autoIncrement`. -/
structure Params where
  /-- T_UNIT: how many milliseconds one time unit is (R161) -/
  tUnitMs : Nat
  slaveAddr : BitVec 7
  /-- PKT_LEN: how many bytes a packet has; PKT48 holds at most six -/
  pktLen : Nat
  layout : PktLayout
  pktBase : RegAddr
  touchBit : Fin 8
  buttonMask : Byte
  zMask : Byte
  drActiveLevel : Level
  drPin : Nat
  busClockHz : Nat
  busPullups : Bool
  strictAddr : Bool
  deriving DecidableEq, Repr

/-! ### The parameters with no default -/

/-- DR_PIN: which pin the data-ready line is on (OPEN, R6). -/
opaque drPin : Nat
/-- BUS_CLOCK_HZ (OPEN, R6). -/
opaque busClockHz : Nat
/-- BUS_PULLUPS (OPEN, R6). -/
opaque busPullups : Bool

/-! ### The oracle's answers (R44) -/

/-- The three outcomes of an executed session. -/
inductive SessionOutcome where
  | ok
  | noAck
  | timeout
  deriving DecidableEq, Repr, Inhabited

/-- Everything the bus primitive and the sensor choose about one executed session. -/
structure SessionAnswer where
  outcome : SessionOutcome
  /-- the byte of the first `readByte`; used only when a data session's outcome is `ok` -/
  b0 : Byte
  /-- the byte of the second `readByte`; likewise -/
  b1 : Byte
  /-- how long the session took, in milliseconds; cut at T_DEADLINE (R132, R162) -/
  ms : Nat
  /-- whether the sensor took the frame, where the spec leaves that open (U5, R73, R82, R164) -/
  latched : Bool
  /-- whether the session was a STATUS clear for the sensor, where the spec leaves that open (U1, U2, U7, U16) -/
  cleared : Bool
  /-- what the sensor did to its registers of its own accord since the last session (R39, R40, R64) -/
  drift : List Host.Cell
  /-- what the sensor did to its registers after it took a write to an address that DOC does not call written (R32) -/
  later : List Host.Cell
  /-- where the sensor's read pointer is afterwards, where the spec leaves that open (R46, R64, R164) -/
  ptr : RegAddr
  deriving DecidableEq, Repr, Inhabited

/-- The platform's answer to one configuration call (R116). -/
inductive CfgAnswer where
  | ok
  | rejected
  deriving DecidableEq, Repr, Inhabited

/-- The answers to the two configuration calls of `initialize` (R116). -/
structure ConfigAnswers where
  bus : CfgAnswer
  pin : CfgAnswer
  deriving DecidableEq, Repr, Inhabited

/-- Everything a reset of the block leaves open in the environment (R153, R154). -/
structure ResetAnswer where
  /-- the sensor's registers that are known to have changed -/
  drift : List Host.Cell
  /-- the sensor's read pointer -/
  ptr : RegAddr
  /-- after a reset that struck in a transaction: the bus primitive is configured -/
  busConfigured : Bool
  /-- after a reset that struck in a transaction: the data-ready pin is an input -/
  pinIsInput : Bool
  /-- after a reset that struck in a transaction: the time of the sensor's last STATUS clear, if there is one; it may lie
  ahead, where the bus primitive still goes on with the frame -/
  clearedAt : Option Nat
  deriving DecidableEq, Repr, Inhabited

/-- Who makes the next step (R9): the host, a unit of the block that is an agent, the timing primitive ending one of
the three suspensions, or the outside world's asynchronous reset (R150). TRD and DRM are pure functions and no
agents: the host evaluates them in its own step. -/
inductive Agent where
  /-- the host presents its next command, takes a result, or evaluates a pure command (R9, R66) -/
  | host
  | rpe
  | slc
  /-- the timing primitive resumes the RPE's settling delay -/
  | settleTimer
  /-- the timing primitive resumes the SLC's post-clear delay -/
  | postClearTimer
  /-- the timing primitive resumes the host's own suspension (R66) -/
  | hostTimer
  | reset
  deriving DecidableEq, Repr, Inhabited

/-! ### Free values: what the environment answers when State lists no answer -/

/-- The `n`th draw of a session's answer. -/
opaque freeSession : Nat → SessionAnswer
/-- The `n`th draw of the two configuration answers. -/
opaque freeConfig : Nat → ConfigAnswers
/-- The `n`th draw of what a reset leaves open. -/
opaque freeReset : Nat → ResetAnswer
/-- The `n`th draw of who moves next. -/
opaque freeTurn : Nat → Agent
/-- The `n`th draw of the level the data-ready pin shows when it is sampled (R44, R96). -/
opaque freeLevel : Nat → Level
/-- The `n`th draw of how many milliseconds a suspension lasts beyond its minimum (R160). -/
opaque freeDelay : Nat → Nat
/-- What a sensor register holds that no write and no listed change has determined (R22, R27, R32, U10). -/
opaque freeRegister : RegAddr → Byte

end Sys2Proof.Config
end

