-- ==== Sys2Proof/Syntax.lean ====
section
/-! DEFINITION. The seven commands (R8), the words of the four command ports (R50), and the statements of a host's
program (R66, R67). -/

namespace Sys2Proof

/-- The commands, one constructor per row of the opcode table. `initializeSensor` is the table's `initialize` (that
word alone is not allowed as a name in this package). -/
inductive Instr where
  /-- RPE, CMD16 `0aaaaaaavvvvvvvv` (R70) -/
  | writeRegister (addr : RegAddr) (value : Byte)
  /-- RPE, CMD16 `1aaaaaaaxxxxxxxx` (R80); `low` is the word's ignored low byte, latched into `val_r` (R11) -/
  | readRegister (addr : RegAddr) (low : Byte)
  /-- TRD, PKT48 (R100) -/
  | decode (raw : Packet)
  /-- DRM, PIN1 (R95); `level` is what `PIN.read` answers -/
  | isDataReady (level : Level)
  /-- SLC, LC2 `00` (R116) -/
  | initializeSensor
  /-- SLC, LC2 `01` (R117) -/
  | enableDataFeed
  /-- SLC, LC2 `10` (R118) -/
  | clearStatusFlags
  deriving DecidableEq, Repr

/-- The four command ports (R50). -/
inductive Port where
  | cmd16
  | pkt48
  | pin1
  | lc2
  deriving DecidableEq, Repr

/-- A word at a command port: which port it is at decides how it decodes (R50). -/
inductive PortWord where
  | cmd16 (w : Cmd16)
  | pkt48 (w : Packet)
  | pin1 (w : Level)
  | lc2 (w : LcWord)
  deriving DecidableEq, Repr

/-- The width of a port in bits (R50). -/
def Port.width : Port → Nat
  | .cmd16 => 16
  | .pkt48 => 48
  | .pin1 => 1
  | .lc2 => 2

/-! ### The host's line syntax -/

/-- `addr` of R66: a number or a symbolic address. -/
inductive AddrExpr where
  | lit (n : Nat)
  | firmverReg
  | statusReg
  | feedEnableReg
  /-- `PKT_BASE + n` -/
  | pktBase (n : Nat)
  deriving DecidableEq, Repr

/-- `statement` of R66, and the pseudo-instruction `readPacket` of R67. -/
inductive Stmt where
  | writeRegister (addr : AddrExpr) (value : Nat)
  | readRegister (addr : AddrExpr)
  | isDataReady
  | decode (bytes : List Nat)
  | initializeSensor
  | enableDataFeed
  | clearStatusFlags
  | suspend (n : Nat)
  | readPacket
  deriving DecidableEq, Repr

/-- What a statement makes the host do: present a command, sample the data-ready line (the level is the
environment's), or call the timing primitive for itself. -/
inductive HostAction where
  | present (i : Instr)
  | sample
  | suspend (n : Nat)
  deriving DecidableEq, Repr

end Sys2Proof
end

