-- ==== Sys2Proof/Machine/Params.lean ====
section
/-! DEFINITION. The values of DOC's constants (R5) and of the open parameters' defaults (R6), each in one record, and
what is computed from them alone. -/

namespace Sys2Proof.Machine

/-- DOC's constants, as R5 lists them (unaudited, notes/assumptions/23). -/
def doc : Config.DocConstants where
  addrW := 7
  dataW := 8
  writeMask := 0x80
  readMask := 0xA0
  rdBurst := 2
  tSettle := 30
  tPostClear := 50
  tDeadlineMs := 1000
  firmverReg := 0x01
  statusReg := 0x02
  statusClearVal := 0x00
  feedEnableReg := 0x04
  feedEnableVal := 0x01
  pinnacleXMax := 2047
  pinnacleYMax := 1535
  xLower := 127
  xUpper := 1919
  yLower := 63
  yUpper := 1471

/-- The default PKT_LAYOUT: the table of R58. -/
def defaultLayout : Config.PktLayout where
  status := 0
  xLow := 2
  yLow := 3
  xHigh := ⟨4, 0⟩
  yHigh := ⟨4, 4⟩
  zByte := 5

/-- The parameters at the defaults of R6; the three that R6 gives no default are the opaque constants of Config. -/
def defaultParams : Config.Params where
  tUnitMs := 1
  slaveAddr := 0x2A
  pktLen := 6
  layout := defaultLayout
  pktBase := 0x12
  touchBit := 7
  buttonMask := 0x3F
  zMask := 0x3F
  drActiveLevel := 1
  drPin := Config.drPin
  busClockHz := Config.busClockHz
  busPullups := Config.busPullups
  strictAddr := false

/-- The default BURST_RULE (R6, R47): the second byte of a burst comes from the register after the pointer. What
auto-increment gives after the last register the spec leaves open: at 0x1F the byte is a draw (R91 (b)) and ENV-ECHO of
95_test_vectors.md has no value there. That this function goes on to 0x20, and from 0x7F to 0x00 by addition on seven
bits, is a DESIGN CHOICE, notes/assumptions/19. -/
def autoIncrement (a : RegAddr) : RegAddr := a + 1

/-- How many reads of RD_BURST bytes fetch a packet of PKT_LEN bytes (R38, R112). The spec speaks of six bytes and three
reads only (R67, R112, D17); that the number is rounded up for an odd PKT_LEN is a DESIGN CHOICE, notes/assumptions/15. -/
def readCount (p : Config.Params) : Nat := (p.pktLen + doc.rdBurst - 1) / doc.rdBurst

end Sys2Proof.Machine
end

