-- ==== Sys2Proof/WellFormed.lean ====
section
/-! DEFINITION. The checks on terms: a parameter record, a statement of a host's program, a command. -/

namespace Sys2Proof

/-- Every field of the packet lies in its PKT_LEN bytes (R6, R58). -/
def Config.PktLayout.within (l : Config.PktLayout) (n : Nat) : Bool :=
  decide (l.status.val < n) && decide (l.xLow.val < n) && decide (l.yLow.val < n) &&
    decide (l.xHigh.byte.val < n) && decide (l.yHigh.byte.val < n) && decide (l.zByte.val < n)

/-- BUTTON_MASK has bit TOUCH_BIT clear (R102), a time unit is a duration, not nothing (R161), PKT48 holds the
PKT_LEN bytes of a packet (R50, R58), and the layout's fields lie in them. -/
def Config.Params.wf (p : Config.Params) : Bool :=
  !p.buttonMask.getLsbD p.touchBit && decide (0 < p.tUnitMs) && decide (p.pktLen ≤ 6) && p.layout.within p.pktLen

/-- DOC's invariant on the reachable window: "lower < upper for both axes" (R5); the types of Word.lean have the
widths ADDR_W and DATA_W; and a read's result is a pair of bytes, so a burst has two (R5, R59). -/
def Config.DocConstants.wf (c : Config.DocConstants) : Bool :=
  decide (c.xLower < c.xUpper) && decide (c.yLower < c.yUpper) && decide (c.addrW = 7) && decide (c.dataW = 8) &&
    decide (c.rdBurst = 2)

/-- The number an address expression stands for (R66). -/
def AddrExpr.value (p : Config.Params) : AddrExpr → Nat
  | .lit n => n
  | .firmverReg => Machine.doc.firmverReg.toNat
  | .statusReg => Machine.doc.statusReg.toNat
  | .feedEnableReg => Machine.doc.feedEnableReg.toNat
  | .pktBase n => p.pktBase.toNat + n

/-- `addr := 0 .. 0x7F` (R66): ADDR_W bits. That a sum `PKT_BASE + n` has to keep to them too is a DESIGN CHOICE: the
grammar bounds no `n`, notes/assumptions/30. -/
def AddrExpr.wf (p : Config.Params) (a : AddrExpr) : Bool := decide (a.value p < 2 ^ Machine.doc.addrW)

/-- The operand ranges of R66: an address of ADDR_W bits, a byte of DATA_W bits, a packet of PKT_LEN bytes; and
`readPacket`'s addresses stay ADDR_W bits wide (R67), which the spec does not ask for: DESIGN CHOICE,
notes/assumptions/30. -/
def Stmt.wf (p : Config.Params) : Stmt → Bool
  | .writeRegister a v => a.wf p && decide (v < 2 ^ Machine.doc.dataW)
  | .readRegister a => a.wf p
  | .decode bs => decide (bs.length = p.pktLen) && bs.all (fun b => decide (b < 2 ^ Machine.doc.dataW))
  | .readPacket => (AddrExpr.pktBase (Machine.doc.rdBurst * (Machine.readCount p - 1))).wf p
  | .isDataReady => true
  | .initializeSensor => true
  | .enableDataFeed => true
  | .clearStatusFlags => true
  | .suspend _ => true

/-- A command is well formed when every operand has its width. The operand TYPES say that already, and every word of
CMD16, PKT48 and PIN1 is a command (R51, R58, R62), so no command is ill formed. -/
def Instr.wf : Instr → Bool
  | .writeRegister a v => decide (a.toNat < 2 ^ Machine.doc.addrW) && decide (v.toNat < 2 ^ Machine.doc.dataW)
  | .readRegister a v => decide (a.toNat < 2 ^ Machine.doc.addrW) && decide (v.toNat < 2 ^ Machine.doc.dataW)
  | .decode p => decide (p.toNat < 2 ^ 48)
  | .isDataReady d => decide (d.toNat < 2)
  | .initializeSensor => true
  | .enableDataFeed => true
  | .clearStatusFlags => true

end Sys2Proof
end

