-- ==== Sys2Proof/Decode.lean ====
section
/-! DEFINITION. From the words of the four command ports to commands, the encoder back, and the opcode table as
rows of match and mask. -/

namespace Sys2Proof

/-- Why a word is no command. -/
inductive DecodeError where
  /-- the LC2 word `11` (R63) -/
  | reservedLc2
  /-- a number that has more bits than the port is wide (R50) -/
  | tooWide
  deriving DecidableEq, Repr

/-- CMD16 (R51): bit 15 `op`, bits 14:8 `addr`, bits 7:0 `value`; every word is a command. -/
def decodeCmd16 (w : Cmd16) : Instr :=
  let addr : RegAddr := w.extractLsb' 8 7
  let low : Byte := w.extractLsb' 0 8
  if w.getLsbD 15 then .readRegister addr low else .writeRegister addr low

/-- PKT48 (R58): every word is a packet. -/
def decodePkt48 (w : Packet) : Instr := .decode w

/-- PIN1 (R62): the word is the pin's level. -/
def decodePin1 (w : Level) : Instr := .isDataReady w

/-- LC2 (R61); `11` is reserved (R63). -/
def decodeLc2 (w : LcWord) : Except DecodeError Instr :=
  if w = 0#2 then .ok .initializeSensor
  else if w = 1#2 then .ok .enableDataFeed
  else if w = 2#2 then .ok .clearStatusFlags
  else .error .reservedLc2

/-- The decoder: total on every word of every port, rejecting by name. -/
def decodeWord : PortWord → Except DecodeError Instr
  | .cmd16 w => .ok (decodeCmd16 w)
  | .pkt48 w => .ok (decodePkt48 w)
  | .pin1 w => .ok (decodePin1 w)
  | .lc2 w => decodeLc2 w

/-- The word of a port whose bits are the number `n`, if it has no more bits than the port is wide. -/
def portWordOfNat (p : Port) (n : Nat) : Except DecodeError PortWord :=
  if n < 2 ^ p.width then
    .ok (match p with
      | .cmd16 => .cmd16 (BitVec.ofNat 16 n)
      | .pkt48 => .pkt48 (BitVec.ofNat 48 n)
      | .pin1 => .pin1 (BitVec.ofNat 1 n)
      | .lc2 => .lc2 (BitVec.ofNat 2 n))
  else .error .tooWide

/-- The decoder on any number at any port. -/
def decodeAt (p : Port) (n : Nat) : Except DecodeError Instr :=
  match portWordOfNat p n with
  | .ok w => decodeWord w
  | .error e => .error e

/-- Which port a word of the opcode table stands at, told by its number of bits: CMD16 has 16 and PKT48 has 48. In
whole bytes LC2 (2 bits) and PIN1 (1 bit) both have 8 and the table's word carries no port, so 8 bits are LC2's;
PIN1 is told by its exact width 1. DESIGN CHOICE, notes/assumptions/3. -/
def tablePort (nbits : Nat) : Option Port :=
  if nbits = 16 then some .cmd16
  else if nbits = 48 then some .pkt48
  else if nbits = 8 then some .lc2
  else if nbits = 2 then some .lc2
  else if nbits = 1 then some .pin1
  else none

/-- The command the decoder reads from a word of the opcode table, numbered as the table numbers its bits. -/
def decodeTableWord (nbits w : Nat) : Option Instr :=
  match tablePort nbits with
  | some p => (decodeAt p w).toOption
  | none => none

/-! ### The encoder -/

/-- A CMD16 word from its three fields (R51). -/
def encodeCmd16 (op : BitVec 1) (addr : RegAddr) (low : Byte) : Cmd16 :=
  op.setWidth 16 <<< 15 ||| addr.setWidth 16 <<< 8 ||| low.setWidth 16

/-- The word of a command, at its own port (R51, R58, R61, R62). -/
def encode : Instr → PortWord
  | .writeRegister a v => .cmd16 (encodeCmd16 0#1 a v)
  | .readRegister a v => .cmd16 (encodeCmd16 1#1 a v)
  | .decode p => .pkt48 p
  | .isDataReady d => .pin1 d
  | .initializeSensor => .lc2 0#2
  | .enableDataFeed => .lc2 1#2
  | .clearStatusFlags => .lc2 2#2

/-- The port of a word. -/
def PortWord.port : PortWord → Port
  | .cmd16 _ => .cmd16
  | .pkt48 _ => .pkt48
  | .pin1 _ => .pin1
  | .lc2 _ => .lc2

/-- The bits of a word as a number. -/
def PortWord.toNat : PortWord → Nat
  | .cmd16 w => w.toNat
  | .pkt48 w => w.toNat
  | .pin1 w => w.toNat
  | .lc2 w => w.toNat

/-! ### The opcode table -/

/-- One row of the opcode table: a word at `port` is this command when `word &&& mask = pattern`. -/
structure OpcodeRow where
  mnemonic : String
  port : Port
  pattern : Nat
  mask : Nat
  deriving DecidableEq, Repr

/-- The rows, as the table gives them (R51, R58, R61, R62). -/
def opcodeRows : List OpcodeRow :=
  [⟨"writeRegister", .cmd16, 0x0000, 0x8000⟩,
   ⟨"readRegister", .cmd16, 0x8000, 0x8000⟩,
   ⟨"decode", .pkt48, 0, 0⟩,
   ⟨"isDataReady", .pin1, 0, 0⟩,
   ⟨"initialize", .lc2, 0, 3⟩,
   ⟨"enableDataFeed", .lc2, 1, 3⟩,
   ⟨"clearStatusFlags", .lc2, 2, 3⟩]

/-- The mnemonic of a command in the opcode table (R8). -/
def Instr.mnemonic : Instr → String
  | .writeRegister _ _ => "writeRegister"
  | .readRegister _ _ => "readRegister"
  | .decode _ => "decode"
  | .isDataReady _ => "isDataReady"
  | .initializeSensor => "initialize"
  | .enableDataFeed => "enableDataFeed"
  | .clearStatusFlags => "clearStatusFlags"

/-- The bits of a word under a row's mask are the row's pattern. -/
def PortWord.bitsFit (pattern mask : Nat) : PortWord → Bool
  | .cmd16 w => decide (w &&& BitVec.ofNat 16 mask = BitVec.ofNat 16 pattern)
  | .pkt48 w => decide (w &&& BitVec.ofNat 48 mask = BitVec.ofNat 48 pattern)
  | .pin1 w => decide (w &&& BitVec.ofNat 1 mask = BitVec.ofNat 1 pattern)
  | .lc2 w => decide (w &&& BitVec.ofNat 2 mask = BitVec.ofNat 2 pattern)

/-- A word fits a row: it is at the row's port and its masked bits are the row's. -/
def OpcodeRow.fits (r : OpcodeRow) (w : PortWord) : Bool :=
  decide (w.port = r.port) && w.bitsFit r.pattern r.mask

/-- The mnemonics of the rows a word fits. -/
def rowsOf (w : PortWord) : List String := (opcodeRows.filter (·.fits w)).map (·.mnemonic)

end Sys2Proof
end

