-- ==== Sys2Proof/Machine/State.lean ====
section
/-! DEFINITION. The state of the machine: the block's own registers (R10 to R21), the words held at its command
ports (R14, R21), and the model's own fields for the environment (R9, R22, R24, R44): the host, the sensor as far
as the spec speaks of it, the oracle's pending answers, the passing of time, the trace, the parameters of the run. -/

namespace Sys2Proof.Machine

/-! ### The engine's registers -/

/-- `op_r` (R11): 0 = `writeRegister`, 1 = `readRegister`. -/
inductive RpeOp where
  | write
  | read
  deriving DecidableEq, Repr

/-- The sequencing register `phase` (R12). -/
inductive Phase where
  | idle
  | wrSession
  | rdPtrSession
  | rdSettle
  | rdDataSession
  deriving DecidableEq, Repr

/-- `res_code` (R15). -/
inductive ResCode where
  | ok
  | noAck
  | timeout
  | config
  deriving DecidableEq, Repr

/-- The RPE's registers (R11, R12, R15 to R18). `hiR`, `loR` are `none` where the spec says that they hold no
value (R16). -/
structure Rpe where
  opR : RpeOp
  addrR : RegAddr
  valR : Byte
  phase : Phase
  sessOpen : Bool
  resValid : Bool
  resCode : ResCode
  hiR : Option Byte
  loR : Option Byte
  deriving DecidableEq, Repr

/-! ### The lifecycle controller -/

/-- `lc_state` (R20). -/
inductive LcState where
  | uninitialized
  | busConfigured
  | feedEnabled
  | ready
  | flagsCleared
  | terminal
  deriving DecidableEq, Repr

/-- The two SLC commands that issue a register write (R117, R118). -/
inductive SlcOp where
  | enableDataFeed
  | clearStatusFlags
  deriving DecidableEq, Repr

/-- Where the SLC stands inside a command (R116 to R118): it is to make `initialize`'s two configuration calls, it
wants the RPE to accept its write, it awaits the write's result, or its post-clear suspension is pending. -/
inductive SlcStage where
  | idle
  | configuring
  | request (op : SlcOp)
  | await (op : SlcOp)
  | postClear
  deriving DecidableEq, Repr

/-- The SLC's registers (R20, R21). -/
structure Slc where
  lcState : LcState
  lcBusy : Bool
  stage : SlcStage
  deriving DecidableEq, Repr

/-! ### The command ports -/

/-- The words presented to the two units that can be busy and not yet taken, oldest first (R14, R21: held, neither lost
nor answered). Nothing waits at the ports of the TRD and the DRM: a pure command is evaluated when it is presented
(R9, R96, R109). DESIGN CHOICE of lists, notes/assumptions/8. -/
structure Ports where
  rpe : List Cmd16
  slc : List LcWord
  deriving DecidableEq, Repr

/-! ### The environment -/

/-- RAP space (R30, R31): the sensor's registers as far as they are determined; addresses strictly rising. Every
register holds a value (`Sensor.reg`): one that is not listed holds a free value. -/
abbrev Memory := List Host.Cell

/-- What the list says of an address that it does not list: nothing. The register's value is then the free value
`Config.freeRegister` (R22, R27, R32), notes/assumptions/10. -/
def Memory.unlisted : Option Byte := none

/-- The sensor and the platform as far as the spec speaks of them (R22). -/
structure Sensor where
  regs : Memory
  /-- the internal read pointer (R46) -/
  readPtr : RegAddr
  /-- the bus primitive has accepted its configuration (R22 (d), R116) -/
  busConfigured : Bool
  /-- the data-ready pin has been configured as an input (R22 (d), R116) -/
  pinIsInput : Bool
  /-- when the last write of 0x00 to STATUS ended that the sensor took, or may have taken (R40, R164); after a reset in a
  transaction any time, also one that lies ahead (R153, U17) -/
  clearedAt : Option Nat
  deriving DecidableEq, Repr

/-- What the outside world will answer, oldest first; when a list is empty the answer is the free value of Config
at the counter `draws`. -/
structure Inputs where
  turns : List Config.Agent
  sessions : List Config.SessionAnswer
  configs : List Config.ConfigAnswers
  delays : List Nat
  levels : List Level
  resets : List Config.ResetAnswer
  draws : Nat
  deriving DecidableEq, Repr

/-- Elapsed time in milliseconds, when the engine's last session was opened (R164), and when each of the two
suspensions was asked for (R160). -/
structure Clock where
  now : Nat
  sessionSince : Nat
  settleSince : Nat
  postClearSince : Nat
  deriving DecidableEq, Repr

/-! ### The trace -/

/-- Whose a result or a suspension is (R24). Results come from the RPE, the SLC and the TRD; the host delivers none but
suspends itself (R66). The DRM has no `Result` event: `isDataReady` is one `PIN.read` "and nothing else"
(95_test_vectors.md S4). That the TRD has one, for the report that vector P2 lists, is the model's choice: DESIGN CHOICE,
notes/assumptions/12. -/
inductive BlockUnit where
  | rpe
  | slc
  | trd
  | host
  deriving DecidableEq, Repr

/-- The acknowledge policies (R56). -/
inductive AckPolicy where
  | ackCheck
  | ackContinue
  | ackStop
  deriving DecidableEq, Repr

/-- What `BP.execute` returns (R56). -/
inductive SessionResult where
  | ok
  | okBytes (b0 b1 : Byte)
  | noAck
  | timeout
  deriving DecidableEq, Repr

/-- The errors (R130). -/
inductive ErrorKind where
  | noAck
  | timeout
  | config
  deriving DecidableEq, Repr

/-- A PositionReport: five fields, no packed encoding (R60). -/
structure PositionReport where
  xValue : Half
  yValue : Half
  zValue : Half
  buttonFlags : Byte
  touchDown : Bool
  deriving DecidableEq, Repr

/-- What a command delivers to whoever issued it (R59, R60, R95, R116 to R118). -/
inductive CmdResult where
  | ok
  | okPair (high low : Byte)
  | err (e : ErrorKind)
  | level (asserted : Bool)
  | report (r : PositionReport)
  deriving DecidableEq, Repr

/-- The events of a run (R24). The unit that calls the timing primitive and the event `blockReset` are the
model's own: DESIGN CHOICE, notes/assumptions/12. -/
inductive Event where
  | accept (i : Instr)
  | bpOpen
  | bpStart
  | bpWriteByte (b : Byte) (p : AckPolicy)
  | bpReadByte (p : AckPolicy)
  | bpStop
  | bpExecute (deadlineMs : Nat) (r : SessionResult)
  | bpClose
  | tpSuspend (u : BlockUnit) (n : Nat)
  | tpResume (u : BlockUnit)
  | pinRead (pin : Nat) (level : Level)
  | bpConfigure (hz : Nat) (pullups : Bool) (c : Config.CfgAnswer)
  | pinConfigureInput (pin : Nat) (c : Config.CfgAnswer)
  | result (u : BlockUnit) (r : CmdResult)
  | blockReset
  deriving DecidableEq, Repr

/-! ### The host -/

/-- Where the host's one control flow stands (R9, R66). -/
inductive HostWait where
  /-- it goes on with its program -/
  | ready
  /-- it awaits the result of the command it presented to `u`, the RPE or the SLC; `since` is how many events the trace
  then had -/
  | result (u : BlockUnit) (since : Nat)
  /-- its own suspension of `units` time units, asked for at `since`, is pending -/
  | timer (since units : Nat)
  deriving DecidableEq, Repr

/-- The host (R9 (1), R66): what is left of its program, what it waits for, the error that ended the program, and the
last result that was returned to it. DESIGN CHOICE, notes/assumptions/18. -/
structure HostFlow where
  program : List HostAction
  wait : HostWait
  failed : Option ErrorKind
  last : Option CmdResult
  deriving DecidableEq, Repr

/-! ### The whole -/

/-- The machine: `rpe` and `slc` are the block's (R10); the rest is the model's own, see INVENTORY.md. -/
structure State where
  host : HostFlow
  rpe : Rpe
  slc : Slc
  ports : Ports
  sensor : Sensor
  inputs : Inputs
  clock : Clock
  trace : List Event
  cfg : Config.Params
  deriving DecidableEq, Repr

/-- Why the machine faults: never. The block has no trap (R130, R134): a command that fails completes with an
error, which is a next state. -/
inductive Fault where
  deriving DecidableEq, Repr

/-- The forms the spec gives no meaning (R148). Each is safe: the model says nothing of what follows. -/
inductive Refusal where
  /-- raised by `exec` for a command with no meaning yet (none is left); safe -/
  | notModelled (mnemonic : String)
  /-- raised by the SLC's turn on the LC2 word `11` (R63, R148 (a)); safe -/
  | reservedLc2
  /-- raised by an SLC command in a state that does not allow it (R121, R148 (b)); safe -/
  | lifecycleState
  /-- raised by an RPE command with an aliasing address when STRICT_ADDR is true (R64, R148 (c)); safe -/
  | aliasingAddress
  /-- raised by a host's read of a result that holds no value (R16, R148 (d)); safe -/
  | noValue
  deriving DecidableEq, Repr

/-- The RPE's registers after reset (R27). `op_r`, `addr_r`, `val_r` and `res_code` have no value in the spec:
DESIGN CHOICE, zero, notes/assumptions/1. `hi_r`, `lo_r` hold no value (R16, R27). -/
def Rpe.reset : Rpe where
  opR := .write
  addrR := 0
  valR := 0
  phase := .idle
  sessOpen := false
  resValid := false
  resCode := .ok
  hiR := none
  loR := none

/-- The SLC's registers after reset (R27). -/
def Slc.reset : Slc where
  lcState := .uninitialized
  lcBusy := false
  stage := .idle

/-- The machine right after reset (R27, R150), with nothing presented, nothing answered and nothing known of the
sensor. The values of the model's own fields are DESIGN CHOICES, notes/assumptions/1 and 2. -/
def State.reset : State where
  host := ⟨[], .ready, none, none⟩
  rpe := Rpe.reset
  slc := Slc.reset
  ports := ⟨[], []⟩
  sensor := ⟨[], 0, false, false, none⟩
  inputs := ⟨[], [], [], [], [], [], 0⟩
  clock := ⟨0, 0, 0, 0⟩
  trace := []
  cfg := defaultParams

end Sys2Proof.Machine
end

