-- ==== Sys2Proof/Machine/Operands.lean ====
section
/-! DEFINITION. The bytes and frames the engine builds from its operands (R52 to R57), and the fields the decoder
takes from a packet (R58, R65, R100 to R108). -/

namespace Sys2Proof.Machine

/-! ### Bytes on the bus -/

/-- The slave-address byte `{SLAVE_ADDR[6:0], rw}` (R52): `rw` is 0 for write intent, 1 for read intent. -/
def slaByte (p : Config.Params) (rw : BitVec 1) : Byte := (p.slaveAddr ++ rw : BitVec 8)

/-- The pointer byte of a register write (R53). -/
def ptrW (addr : RegAddr) : Byte := doc.writeMask ||| addr.setWidth 8

/-- The pointer byte of a register read (R53). -/
def ptrR (addr : RegAddr) : Byte := doc.readMask ||| addr.setWidth 8

/-- A framable address: `addr & 0x60 = 0` (R54). -/
def framable (addr : RegAddr) : Bool := decide (addr &&& 0x60#7 = 0#7)

/-- The three kinds of session (R57): register write, pointer phase, read phase. -/
inductive FrameKind where
  | w
  | p
  | d
  deriving DecidableEq, Repr

/-- The kind of session a phase stands for (R12); none in `IDLE` and `RD_SETTLE`. -/
def Phase.frame : Phase → Option FrameKind
  | .idle => none
  | .wrSession => some .w
  | .rdPtrSession => some .p
  | .rdSettle => none
  | .rdDataSession => some .d

/-- A burst of `n` bytes (R56, R85): every byte is acknowledged so that the burst goes on, the last so that it ends. -/
def burstReads : Nat → List Event
  | 0 => []
  | 1 => [.bpReadByte .ackStop]
  | n + 2 => .bpReadByte .ackContinue :: burstReads (n + 1)

/-- The calls of a session from `BP.open` to `BP.stop`, in the order of R57; `BP.execute` and `BP.close` follow. A read
phase fetches RD_BURST bytes. -/
def frameCalls (p : Config.Params) (k : FrameKind) (addr : RegAddr) (value : Byte) : List Event :=
  match k with
  | .w => [.bpOpen, .bpStart, .bpWriteByte (slaByte p 0) .ackCheck, .bpWriteByte (ptrW addr) .ackCheck,
      .bpWriteByte value .ackCheck, .bpStop]
  | .p => [.bpOpen, .bpStart, .bpWriteByte (slaByte p 0) .ackCheck, .bpWriteByte (ptrR addr) .ackCheck, .bpStop]
  | .d => .bpOpen :: .bpStart :: .bpWriteByte (slaByte p 1) .ackCheck :: (burstReads doc.rdBurst ++ [.bpStop])

/-- What `BP.execute` returns for a session of kind `k` with the oracle's answer `a` (R56): bytes come with `Ok` of a
data session only. -/
def sessionResult (k : FrameKind) (a : Config.SessionAnswer) : SessionResult :=
  match a.outcome with
  | .ok => match k with
    | .w => .ok
    | .p => .ok
    | .d => .okBytes a.b0 a.b1
  | .noAck => .noAck
  | .timeout => .timeout

/-- How long an executed session takes: at most T_DEADLINE, and all of it when the deadline ends it (R132, R162).
DESIGN CHOICE, notes/assumptions/14. -/
def sessionMs (a : Config.SessionAnswer) : Nat :=
  match a.outcome with
  | .ok => min a.ms doc.tDeadlineMs
  | .noAck => min a.ms doc.tDeadlineMs
  | .timeout => doc.tDeadlineMs

/-! ### The SLC's two register writes -/

/-- The address and the value an SLC command writes (R76, R117, R118). -/
def slcWrite : SlcOp → RegAddr × Byte
  | .enableDataFeed => (doc.feedEnableReg, doc.feedEnableVal)
  | .clearStatusFlags => (doc.statusReg, doc.statusClearVal)

/-! ### Packet fields -/

/-- `raw[i]` of a packet (R58). -/
def rawByte (P : Packet) (i : Nat) : Byte := P.extractLsb' (8 * i) 8

/-- A packet from its bytes, `raw[0]` first (R58); PKT48 holds six, and where there are fewer the rest is 0. -/
def packetOfList : List Byte → Packet
  | [] => 0
  | b :: bs => packetOfList bs <<< 8 ||| b.setWidth 48

/-- A packet from six bytes, `raw[0]` first (R58). -/
def packetOfBytes (b0 b1 b2 b3 b4 b5 : Byte) : Packet := packetOfList [b0, b1, b2, b3, b4, b5]

/-- A raw coordinate: four high bits from a nibble, eight low bits from a byte, zero-extended to 16 (R65, R103,
R104). -/
def rawCoord (P : Packet) (high : Config.Nibble) (low : Nat) : Half :=
  ((rawByte P high.byte).extractLsb' high.lo 4).setWidth 16 <<< 8 ||| (rawByte P low).setWidth 16

/-- `xRaw` (R103). -/
def xRaw (p : Config.Params) (P : Packet) : Half := rawCoord P p.layout.xHigh p.layout.xLow

/-- `yRaw` (R104). -/
def yRaw (p : Config.Params) (P : Packet) : Half := rawCoord P p.layout.yHigh p.layout.yLow

/-- `zRaw = zext_16(raw[5] & Z_MASK)` (R105). -/
def zRaw (p : Config.Params) (P : Packet) : Half := (rawByte P p.layout.zByte &&& p.zMask).setWidth 16

/-- `clamp(v, lo, hi)`, unsigned (R7). -/
def clamp (v lo hi : Half) : Half := if v < lo then lo else if hi < v then hi else v

/-- The whole of `decode` (R100 to R108): extraction, then clipping; no offset, no scaling, no state. -/
def decodeReport (p : Config.Params) (P : Packet) : PositionReport where
  xValue := clamp (xRaw p P) doc.xLower doc.xUpper
  yValue := clamp (yRaw p P) doc.yLower doc.yUpper
  zValue := zRaw p P
  buttonFlags := rawByte P p.layout.status &&& p.buttonMask
  touchDown := (rawByte P p.layout.status).getLsbD p.touchBit

/-- `isDataReady`'s answer (R95): the level is the one that means "asserted". -/
def dataReady (p : Config.Params) (d : Level) : Bool := decide (d = p.drActiveLevel)

end Sys2Proof.Machine
end

