-- ==== Sys2Proof/Machine/Flags.lean ====
section
/-! DEFINITION. The block has no condition codes (R19). What stands here in their place is its status: `busy`, the
numeric encodings of the status registers, and a host's reads of them (R13, R15, R16, R20, R25). -/

namespace Sys2Proof.Machine

/-- `busy = (phase != IDLE)`, not stored (R13). -/
def State.busy (s : State) : Bool := decide (s.rpe.phase ≠ .idle)

/-- The encoding of `op_r` (R11). -/
def RpeOp.code : RpeOp → BitVec 1
  | .write => 0#1
  | .read => 1#1

/-- The encoding of `phase` (R12). -/
def Phase.code : Phase → BitVec 3
  | .idle => 0#3
  | .wrSession => 1#3
  | .rdPtrSession => 2#3
  | .rdSettle => 3#3
  | .rdDataSession => 4#3

/-- The encoding of `res_code` (R15). -/
def ResCode.code : ResCode → BitVec 2
  | .ok => 0#2
  | .noAck => 1#2
  | .timeout => 2#2
  | .config => 3#2

/-- The encoding of `lc_state` (R20). -/
def LcState.code : LcState → BitVec 3
  | .uninitialized => 0#3
  | .busConfigured => 1#3
  | .feedEnabled => 2#3
  | .ready => 3#3
  | .flagsCleared => 4#3
  | .terminal => 5#3

/-- The `res_code` of an error (R130). -/
def ErrorKind.resCode : ErrorKind → ResCode
  | .noAck => .noAck
  | .timeout => .timeout
  | .config => .config

/-- The error a `res_code` stands for; `OK` is the absence of one (R130). -/
def ResCode.error : ResCode → Option ErrorKind
  | .ok => none
  | .noAck => some .noAck
  | .timeout => some .timeout
  | .config => some .config

/-- The state in which `hi_r` and `lo_r` hold a value (R16). -/
def Rpe.hasBytes (r : Rpe) : Bool :=
  r.resValid && decide (r.resCode = .ok) && decide (r.opR = .read)

/-- A host's read of `res_code`: refused while no result is present (R27, R148). -/
def State.readResCode (s : State) : Except Refusal ResCode :=
  if s.rpe.resValid then .ok s.rpe.resCode else .error .noValue

/-- A host's read of `hi_r`: refused when it holds no value (R16, R148 (d)). -/
def State.readHi (s : State) : Except Refusal Byte :=
  match s.rpe.hiR with
  | some b => .ok b
  | none => .error .noValue

/-- A host's read of `lo_r`: refused when it holds no value (R16, R148 (d)). -/
def State.readLo (s : State) : Except Refusal Byte :=
  match s.rpe.loR with
  | some b => .ok b
  | none => .error .noValue

end Sys2Proof.Machine
end

