-- ==== Sys2Proof/Machine/Ops.lean ====
section
/-! DEFINITION. The named operations: RAP space, updates of State, the oracle's answers, the shared steps of a
transaction, and error completion (R134), the block's one form of taking an exception. There is no return from it:
the next command is simply accepted (R138). -/

namespace Sys2Proof.Machine

/-! ### RAP space -/

/-- One register of RAP space, if the list determines it. -/
def Memory.read : Memory → Nat → Option Byte
  | [], _ => Memory.unlisted
  | c :: m, a => if c.1 = a then some c.2 else Memory.read m a

/-- One register written; the canonical form is kept. -/
def Memory.write : Memory → Nat → Byte → Memory
  | [], a, v => [(a, v)]
  | c :: m, a, v =>
    if a < c.1 then (a, v) :: c :: m
    else if a = c.1 then (a, v) :: m
    else c :: Memory.write m a v

/-- What a register of the sensor holds: what the list determines, else a free value (R22, R27, R32, U10). DESIGN
CHOICE, notes/assumptions/10. -/
def Sensor.reg (x : Sensor) (a : RegAddr) : Byte := (x.regs.read a.toNat).getD (Config.freeRegister a)

/-- Every address of the list lies above `a`. -/
def Memory.above (a : Nat) : Memory → Bool
  | [] => true
  | c :: m => decide (a < c.1) && Memory.above a m

/-- The canonical form: addresses strictly rising, none outside the addresses of ADDR_W bits (R31). The list says
nothing of an unlisted address, so no entry can equal what it says of one. -/
def Memory.wf : Memory → Bool
  | [] => true
  | c :: m => decide (c.1 < 2 ^ doc.addrW) && Memory.above c.1 m && Memory.wf m

/-- The sensor changes registers of its own accord (R39, R40): each entry at its address within RAP space. -/
def Memory.drift : Memory → List Host.Cell → Memory
  | m, [] => m
  | m, c :: cs => Memory.drift (Memory.write m (c.1 % 2 ^ doc.addrW) c.2) cs

/-! ### Updates of State, one part at a time -/

def State.setRpe (s : State) (r : Rpe) : State := { s with rpe := r }
def State.setSlc (s : State) (c : Slc) : State := { s with slc := c }
def State.setPorts (s : State) (p : Ports) : State := { s with ports := p }
def State.setSensor (s : State) (x : Sensor) : State := { s with sensor := x }
def State.setInputs (s : State) (i : Inputs) : State := { s with inputs := i }
def State.setHost (s : State) (h : HostFlow) : State := { s with host := h }
def State.setClock (s : State) (c : Clock) : State := { s with clock := c }
/-- Events added to the trace, in order (R24). -/
def State.emit (s : State) (es : List Event) : State := { s with trace := s.trace ++ es }

/-- A value returned to the caller (R26, R96, R113): the host has it, and no unit of the block keeps a copy. -/
def State.answer (s : State) (r : CmdResult) : State := s.setHost { s.host with last := some r }

/-! ### The environment's answers: the next one listed, else the free value (DESIGN CHOICE, notes/assumptions/6) -/

/-- Who moves next. -/
def State.turn (s : State) : Config.Agent :=
  match s.inputs.turns with
  | a :: _ => a
  | [] => Config.freeTurn s.inputs.draws

/-- The state once `turn` has been taken. -/
def State.afterTurn (s : State) : State :=
  match s.inputs.turns with
  | _ :: as => s.setInputs { s.inputs with turns := as }
  | [] => s.setInputs { s.inputs with draws := s.inputs.draws + 1 }

/-- The oracle's answer to the session that is executed next (R44). -/
def State.session (s : State) : Config.SessionAnswer :=
  match s.inputs.sessions with
  | a :: _ => a
  | [] => Config.freeSession s.inputs.draws

/-- The state once `session` has been taken. -/
def State.afterSession (s : State) : State :=
  match s.inputs.sessions with
  | _ :: as => s.setInputs { s.inputs with sessions := as }
  | [] => s.setInputs { s.inputs with draws := s.inputs.draws + 1 }

/-- The platform's answers to the next `initialize` (R116). -/
def State.config (s : State) : Config.ConfigAnswers :=
  match s.inputs.configs with
  | a :: _ => a
  | [] => Config.freeConfig s.inputs.draws

/-- The state once `config` has been taken. -/
def State.afterConfig (s : State) : State :=
  match s.inputs.configs with
  | _ :: as => s.setInputs { s.inputs with configs := as }
  | [] => s.setInputs { s.inputs with draws := s.inputs.draws + 1 }

/-- The level the data-ready pin shows when the host samples it next (R44, R96). -/
def State.level (s : State) : Level :=
  match s.inputs.levels with
  | d :: _ => d
  | [] => Config.freeLevel s.inputs.draws

/-- The state once `level` has been taken. -/
def State.afterLevel (s : State) : State :=
  match s.inputs.levels with
  | _ :: ds => s.setInputs { s.inputs with levels := ds }
  | [] => s.setInputs { s.inputs with draws := s.inputs.draws + 1 }

/-- What the reset of the block leaves open in the environment (R153, R154). -/
def State.resetAnswer (s : State) : Config.ResetAnswer :=
  match s.inputs.resets with
  | a :: _ => a
  | [] => Config.freeReset s.inputs.draws

/-- The state once `resetAnswer` has been taken. -/
def State.afterReset (s : State) : State :=
  match s.inputs.resets with
  | _ :: as => s.setInputs { s.inputs with resets := as }
  | [] => s.setInputs { s.inputs with draws := s.inputs.draws + 1 }

/-- How many milliseconds the next suspension lasts beyond its minimum (R160). -/
def State.delay (s : State) : Nat :=
  match s.inputs.delays with
  | n :: _ => n
  | [] => Config.freeDelay s.inputs.draws

/-- The state once `delay` has been taken. -/
def State.afterDelay (s : State) : State :=
  match s.inputs.delays with
  | _ :: ns => s.setInputs { s.inputs with delays := ns }
  | [] => s.setInputs { s.inputs with draws := s.inputs.draws + 1 }

/-! ### Holding and accepting -/

/-- An RPE command presented while the engine is busy is held at the port (R14): not accepted, not lost, not
answered. -/
def holdRpe (w : Cmd16) (s : State) : State := s.setPorts { s.ports with rpe := s.ports.rpe ++ [w] }

/-- An SLC command presented while the SLC is busy is held at the port (R21). -/
def holdSlc (w : LcWord) (s : State) : State := s.setPorts { s.ports with slc := s.ports.slc ++ [w] }

/-- The command an RPE operation and its operands stand for. -/
def RpeOp.command (op : RpeOp) (addr : RegAddr) (low : Byte) : Instr :=
  match op with
  | .write => .writeRegister addr low
  | .read => .readRegister addr low

/-- The phase an accepted command starts in (R14). -/
def RpeOp.start : RpeOp → Phase
  | .write => .wrSession
  | .read => .rdPtrSession

/-- The lifecycle state once the RPE has accepted a command (R120): a `readRegister` accepted in `FlagsCleared`
begins a report cycle. -/
def lcAfterAccept (op : RpeOp) (l : LcState) : LcState :=
  match op, l with
  | .read, .flagsCleared => .ready
  | _, _ => l

/-- Acceptance of a command by the RPE, one step (R14, R70, R80, R120): the operands are latched, the result fields
are cleared (R169), the phase leaves `IDLE`. That `res_code` stays is a DESIGN CHOICE, notes/assumptions/22. -/
def acceptRpe (op : RpeOp) (addr : RegAddr) (low : Byte) (s : State) : State :=
  ((s.setRpe { s.rpe with
      opR := op, addrR := addr, valR := low, phase := op.start,
      resValid := false, hiR := none, loR := none }).setSlc
    { s.slc with lcState := lcAfterAccept op s.slc.lcState }).emit [.accept (op.command addr low)]

/-! ### What a session does to the sensor -/

/-- The sensor still settles at the time `t`: fewer than T_POSTCLEAR time units have passed since a STATUS clear
(R164). -/
def sensorSettles (p : Config.Params) (x : Sensor) (t : Nat) : Bool :=
  match x.clearedAt with
  | none => false
  | some c => decide (t < c + doc.tPostClear * p.tUnitMs)

/-- The sensor takes the value of a write session (R64, R72, R73, R164): surely when the outcome is `Ok`, the address is
framable and not FIRMVER (U5) and the session did not come too `early` after a STATUS clear; at a framable address, as
the oracle chooses, for FIRMVER, after a failure and in an early session. That an early session's effect is any value is
U16's, notes/assumptions/29. -/
def writeTaken (addr : RegAddr) (early : Bool) (a : Config.SessionAnswer) : Bool :=
  framable addr && (!early && decide (addr ≠ doc.firmverReg) && decide (a.outcome = .ok) || a.latched)

/-- The registers of which DOC says that they are written (R32): STATUS and FEED_ENABLE. -/
def docWritable (addr : RegAddr) : Bool := decide (addr = doc.statusReg) || decide (addr = doc.feedEnableReg)

/-- A write that the sensor takes (R32, R72): the register holds the value. At an address that DOC does not call written
the sensor may then do what it likes, with this register too: "a model must assume nothing of ... what a write there
does" (R32). DEDUCED, notes/assumptions/28. -/
def takeWrite (addr : RegAddr) (value : Byte) (a : Config.SessionAnswer) (m : Memory) : Memory :=
  let m' := Memory.write m addr.toNat value
  if docWritable addr then m' else Memory.drift m' a.later

/-- RAP space after a session (R39, R40, R64, R72, R73, R81): first what the sensor did of its own accord; then a
write session's value, if the sensor takes it. DEDUCED, notes/assumptions/10. -/
def regsAfter (k : FrameKind) (addr : RegAddr) (value : Byte) (early : Bool) (a : Config.SessionAnswer)
    (m : Memory) : Memory :=
  let m' := Memory.drift m a.drift
  match k with
  | .w => if writeTaken addr early a then takeWrite addr value a m' else m'
  | .p => m'
  | .d => m'

/-- The sensor's read pointer after a session: set by a pointer phase that returned `Ok` at a framable address (R46,
R81), a draw after a failed one (R82), kept by a failed read phase (R87), the sensor's business otherwise (R40, R46,
R64), and after every session that came too `early` after a STATUS clear (R164, U16). DEDUCED, notes/assumptions/20
and 29. -/
def ptrAfter (k : FrameKind) (addr : RegAddr) (early : Bool) (a : Config.SessionAnswer) (old : RegAddr) : RegAddr :=
  if early then a.ptr else
    match k, a.outcome with
    | .w, _ => a.ptr
    | .p, .ok => if framable addr then addr else a.ptr
    | .p, _ => if framable addr then (if a.latched then addr else old) else a.ptr
    | .d, .ok => a.ptr
    | .d, _ => old

/-- The session is surely a STATUS clear (R164): a write of 0x00 to STATUS that returned `Ok`. -/
def surelyCleared (k : FrameKind) (addr : RegAddr) (value : Byte) (a : Config.SessionAnswer) : Bool :=
  decide (k = .w) && decide (addr = doc.statusReg) && decide (value = doc.statusClearVal) && decide (a.outcome = .ok)

/-- Whether the session was a STATUS clear for the sensor is open: at an aliasing address, whose pointer byte the sensor
may take for any (R64, R75, R91, U1); in a session that came too `early` after another clear (U16); and for every other
write to STATUS, one that failed (R73, U2) or one of another value (U7). DEDUCED, notes/assumptions/29. -/
def perhapsCleared (k : FrameKind) (addr : RegAddr) (early : Bool) : Bool :=
  early || !framable addr || decide (k = .w) && decide (addr = doc.statusReg)

/-- The later of `now` and a clear that a cut-off transaction may have left ahead (R153, U17). -/
def lastClear (now : Nat) : Option Nat → Nat
  | none => now
  | some c => max now c

/-- When the sensor's last STATUS clear ended, after a session that ended at `now` (R40, R164). -/
def clearedAfter (k : FrameKind) (addr : RegAddr) (value : Byte) (early : Bool) (now : Nat) (a : Config.SessionAnswer)
    (old : Option Nat) : Option Nat :=
  if surelyCleared k addr value a || perhapsCleared k addr early && a.cleared then some (lastClear now old)
  else old

/-- The sensor after a session that ended at `now`. -/
def sensorAfter (k : FrameKind) (addr : RegAddr) (value : Byte) (early : Bool) (now : Nat) (a : Config.SessionAnswer)
    (x : Sensor) : Sensor :=
  { x with
    regs := regsAfter k addr value early a x.regs
    readPtr := ptrAfter k addr early a x.readPtr
    clearedAt := clearedAfter k addr value early now a x.clearedAt }

/-! ### Error completion -/

/-- Steps (1) to (3) of R134: the unit's session is closed, the rest of its command is skipped, it is free again. -/
def freeUnit (u : BlockUnit) (s : State) : State :=
  match u with
  | .rpe => s.setRpe { s.rpe with sessOpen := false, phase := .idle }
  | .slc => s.setSlc { s.slc with lcBusy := false, stage := .idle }
  | .trd => s
  | .host => s

/-- Step (4) of R134: the result fields show the error, unless a transaction is in flight, whose result they are to
hold (R15). DEDUCED, notes/assumptions/9. -/
def markError (e : ErrorKind) (s : State) : State :=
  match s.rpe.phase with
  | .idle => s.setRpe { s.rpe with resValid := true, resCode := e.resCode, hiR := none, loR := none }
  | _ => s

/-- A command ends in an error: `raise E` (R134). Nothing is saved, no mode changes; the error goes to the
issuer. -/
def raiseError (u : BlockUnit) (e : ErrorKind) (s : State) : State :=
  (markError e (freeUnit u s)).emit [.result u (.err e)]

/-! ### The SLC's part of a register write it issued -/

/-- The lifecycle state after the write an SLC command issued has failed (R115, R117, R118, R122, R123): fatal
during start-up, else unchanged. -/
def lcAfterFailure (op : SlcOp) (l : LcState) : LcState :=
  match op, l with
  | .enableDataFeed, _ => .terminal
  | .clearStatusFlags, .feedEnabled => .terminal
  | .clearStatusFlags, _ => l

/-- The SLC's write completed `Ok` (R117, R118): the feed is enabled, or the post-clear delay begins (R119). -/
def slcWriteOk (op : SlcOp) (s : State) : State :=
  match op with
  | .enableDataFeed =>
    (s.setSlc { lcState := .feedEnabled, lcBusy := false, stage := .idle }).emit [.result .slc .ok]
  | .clearStatusFlags =>
    ((s.setSlc { s.slc with stage := .postClear }).setClock
      { s.clock with postClearSince := s.clock.now }).emit [.tpSuspend .slc doc.tPostClear]

/-- The SLC's write failed (R117, R118, R122, R123): no suspension on this path. -/
def slcWriteFailed (op : SlcOp) (e : ErrorKind) (s : State) : State :=
  raiseError .slc e (s.setSlc { s.slc with lcState := lcAfterFailure op s.slc.lcState })

/-- The RPE's result goes to whoever issued the command (R134 (5), R135): to the SLC when it awaits one. -/
def returnToCaller (s : State) : State :=
  match s.slc.stage with
  | .await op => match s.rpe.resCode.error with
    | none => slcWriteOk op s
    | some e => slcWriteFailed op e s
  | .idle => s
  | .configuring => s
  | .request _ => s
  | .postClear => s

/-! ### The steps of a transaction -/

/-- The result of a command that completed without error, by the bytes it returns (R59). -/
def okResult : Option (Byte × Byte) → CmdResult
  | none => .ok
  | some b => .okPair b.1 b.2

/-- An RPE command completes `Ok` (R70, R80): with two bytes for a read, with none for a write. -/
def completeOk (bytes : Option (Byte × Byte)) (s : State) : State :=
  returnToCaller
    ((s.setRpe { s.rpe with
        phase := .idle, resValid := true, resCode := .ok,
        hiR := bytes.map (·.1), loR := bytes.map (·.2) }).emit [.result .rpe (okResult bytes)])

/-- An RPE command completes with an error (R134). -/
def completeErr (e : ErrorKind) (s : State) : State := returnToCaller (raiseError .rpe e s)

/-- The first half of a session (R57, R17): `BP.open` and the calls up to `BP.stop`. -/
def openSession (k : FrameKind) (s : State) : State :=
  ((s.setRpe { s.rpe with sessOpen := true }).setClock { s.clock with sessionSince := s.clock.now }).emit
    (frameCalls s.cfg k s.rpe.addrR s.rpe.valR)

/-- The session that is open was opened too early after a STATUS clear (R164). -/
def State.early (s : State) : Bool := sensorSettles s.cfg s.sensor s.clock.sessionSince

/-- When the session that is open ends (R132, R162): as long after its opening as it took, or now, if another party's
suspension has ended in the meantime. -/
def State.sessionEnd (s : State) : Nat := max s.clock.now (s.clock.sessionSince + sessionMs s.session)

/-- The second half of a session, up to `BP.close` (R56, R57, R18): the oracle answers, time passes, the session is
closed whatever its outcome. -/
def closeSession (k : FrameKind) (s : State) : State :=
  ((((s.afterSession.setRpe { s.rpe with sessOpen := false }).setSensor
      (sensorAfter k s.rpe.addrR s.rpe.valR s.early s.sessionEnd s.session s.sensor)).setClock
    { s.clock with now := s.sessionEnd }).emit
    [.bpExecute doc.tDeadlineMs (sessionResult k s.session), .bpClose])

/-- The pointer phase ended `Ok` (R80, R83): the engine asks for the settling delay. -/
def beginSettle (s : State) : State :=
  ((s.setRpe { s.rpe with phase := .rdSettle }).setClock { s.clock with settleSince := s.clock.now }).emit
    [.tpSuspend .rpe doc.tSettle]

/-- What follows a closed session, by its kind and outcome (R70, R80, R82, R87). -/
def afterClose (k : FrameKind) (a : Config.SessionAnswer) (s : State) : State :=
  match a.outcome with
  | .ok => match k with
    | .w => completeOk none s
    | .p => beginSettle s
    | .d => completeOk (some (a.b0, a.b1)) s
  | .noAck => completeErr .noAck s
  | .timeout => completeErr .timeout s

/-- One step of the engine inside a session of kind `k`: open it, or execute it, close it and go on. DESIGN CHOICE of
the grain, notes/assumptions/7. Between the two steps nobody calls the bus primitive (R57, D5): `initialize`'s
configuration calls wait for an idle engine (`slcTurn`). -/
def sessionStep (k : FrameKind) (s : State) : State :=
  if s.rpe.sessOpen then afterClose k s.session (closeSession k s) else openSession k s

/-- Time at the end of a suspension of `units` time units asked for at `since`, `extra` milliseconds late (R160,
R161). DESIGN CHOICE, notes/assumptions/14. -/
def resumeTime (p : Config.Params) (now since units extra : Nat) : Nat := max now (since + units * p.tUnitMs) + extra

/-- A unit of the block has a move to make that takes no time: the engine is to open the session of its phase, or the SLC
is to make `initialize`'s calls or to have its write accepted by the idle engine. -/
def State.urgent (s : State) : Bool :=
  (s.rpe.phase.frame.isSome && !s.rpe.sessOpen) ||
    (!s.busy && match s.slc.stage with
      | .configuring => true
      | .request _ => true
      | .idle => false
      | .await _ => false
      | .postClear => false)

/-- A suspension may end at the time `t` as the machine now stands (R132, R171): a session that is open ends within
T_DEADLINE of its opening, so that what lies later comes after its end; and a move that takes no time comes before what
lies later. DESIGN CHOICE, notes/assumptions/14. -/
def State.mayReach (s : State) (t : Nat) : Bool :=
  if s.urgent then decide (t ≤ s.clock.now)
  else if s.rpe.sessOpen then decide (t ≤ s.clock.sessionSince + doc.tDeadlineMs)
  else true

/-- The timing primitive ends the settling delay (R80, R83, R172). -/
def resumeSettle (s : State) : State :=
  ((s.afterDelay.setRpe { s.rpe with phase := .rdDataSession }).setClock
    { s.clock with now := resumeTime s.cfg s.clock.now s.clock.settleSince doc.tSettle s.delay }).emit
    [.tpResume .rpe]

/-- When the post-clear delay ends if the timing primitive ends it now (R119, R160). -/
def State.postClearEnd (s : State) : Nat :=
  resumeTime s.cfg s.clock.now s.clock.postClearSince doc.tPostClear s.delay

/-- The timing primitive ends the post-clear delay, and with it the command (R118, R119). -/
def resumePostClear (s : State) : State :=
  ((s.afterDelay.setSlc { lcState := .flagsCleared, lcBusy := false, stage := .idle }).setClock
    { s.clock with now := s.postClearEnd }).emit
    [.tpResume .slc, .result .slc .ok]

/-- The sensor and the platform when the block is reset (R153, R154). They are not reset; what the registers and the read
pointer hold is unspecified, a draw. A reset that strikes in a transaction leaves all of the environment a draw (U17): the
two configurations, and when the last STATUS clear was, which may lie ahead, since the bus primitive is not reset and may
go on with a frame. Outside a transaction these stay. DEDUCED, notes/assumptions/13. -/
def sensorAtReset (inFlight : Bool) (a : Config.ResetAnswer) (x : Sensor) : Sensor where
  regs := Memory.drift x.regs a.drift
  readPtr := a.ptr
  busConfigured := if inFlight then a.busConfigured else x.busConfigured
  pinIsInput := if inFlight then a.pinIsInput else x.pinIsInput
  clearedAt := if inFlight then a.clearedAt else x.clearedAt

/-- The block's asynchronous reset (R27, R150, R153, R154): every register of the block at its reset value; the host,
what is presented at the ports and the time stay as they are. A suspension of the RPE or of the SLC that is pending in
the timing primitive vanishes: its `TP.resume` comes no more, so that it cannot end a later suspension early, on which
the spec is silent. It is silent too on how much of its time a session or a suspension that the reset cuts off has taken:
here none, the clock stays. DEDUCED, and for the pending suspension and the clock DESIGN CHOICE, notes/assumptions/13. -/
def blockReset (s : State) : State :=
  (((s.afterReset.setSensor (sensorAtReset s.busy s.resetAnswer s.sensor)).setRpe Rpe.reset).setSlc
    Slc.reset).emit [.blockReset]

end Sys2Proof.Machine
end

