-- ==== Sys2Proof/Machine/Drm.lean ====
section
/-! DEFINITION. The data-ready monitor's command (R95). The DRM is a pure function and no agent (R9): whoever samples
the pin has the answer in the same step. -/

namespace Sys2Proof.Machine

/-- `isDataReady` (R95): the pin is sampled, the answer is returned to the caller, and nothing else happens (R96); the
trace shows one `PIN.read` and no `Result`, as 95_test_vectors.md S4 and Q3 say ("and nothing else"). That the DRM's
answer is no `Result` event while the TRD's is one is named in notes/assumptions/12; that `level` is the pin's level at
this step in notes/assumptions/24 (DEDUCED). -/
def execIsDataReady (level : Level) (s : State) : Host.Outcome State Fault Refusal :=
  .next ((s.emit [.pinRead s.cfg.drPin level]).answer (.level (dataReady s.cfg level)))

end Sys2Proof.Machine
end

