-- ==== Sys2Proof/Machine/Rpe.lean ====
section
/-! DEFINITION. The RAP protocol engine's two commands (R70, R80). A meaning is what happens when the command is
presented: it is accepted if the engine is idle and held if it is busy (R14). The sessions and the settling delay of
an accepted command are the engine's own later steps (`sessionStep`, `resumeSettle` of Ops.lean). -/

namespace Sys2Proof.Machine

/-- An RPE command presented (R14; R64 and R148 (c) when STRICT_ADDR is true). DESIGN CHOICE,
notes/assumptions/16. -/
def presentRpe (op : RpeOp) (addr : RegAddr) (low : Byte) (s : State) : Host.Outcome State Fault Refusal :=
  if s.busy then .next (holdRpe (encodeCmd16 op.code addr low) s)
  else if s.cfg.strictAddr && !framable addr then .refused .aliasingAddress
  else .next (acceptRpe op addr low s)

/-- `writeRegister addr, value` (R70). -/
def execWriteRegister (addr : RegAddr) (value : Byte) (s : State) : Host.Outcome State Fault Refusal :=
  presentRpe .write addr value s

/-- `readRegister addr` (R80); `low` is the word's ignored low byte (R11, R51). -/
def execReadRegister (addr : RegAddr) (low : Byte) (s : State) : Host.Outcome State Fault Refusal :=
  presentRpe .read addr low s

end Sys2Proof.Machine
end

