-- ==== Sys2Proof/Machine/Slc.lean ====
section
/-! DEFINITION. The lifecycle controller's three commands (R116 to R118). A command presented while the SLC is busy
is held (R21); one that the lifecycle state does not allow is refused (R121), before anything is issued (R137 (e)). -/

namespace Sys2Proof.Machine

/-- The lifecycle states that allow a command that writes a register (R117, R118). -/
def slcAllowed (op : SlcOp) (l : LcState) : Bool :=
  match op with
  | .enableDataFeed => decide (l = .busConfigured)
  | .clearStatusFlags => decide (l = .feedEnabled) || decide (l = .ready) || decide (l = .flagsCleared)

/-- The command an SLC operation is. -/
def SlcOp.command : SlcOp → Instr
  | .enableDataFeed => .enableDataFeed
  | .clearStatusFlags => .clearStatusFlags

/-- The LC2 word of an SLC operation (R61). -/
def SlcOp.word : SlcOp → LcWord
  | .enableDataFeed => 1#2
  | .clearStatusFlags => 2#2

/-- The SLC accepts a command that writes a register: it is busy and wants the RPE (R117, R118). -/
def slcStart (op : SlcOp) (s : State) : State :=
  (s.setSlc { s.slc with lcBusy := true, stage := .request op }).emit [.accept op.command]

/-- An SLC command that writes a register presented. -/
def presentSlc (op : SlcOp) (s : State) : Host.Outcome State Fault Refusal :=
  if s.slc.lcBusy then .next (holdSlc op.word s)
  else if slcAllowed op s.slc.lcState then .next (slcStart op s)
  else .refused .lifecycleState

/-- The RPE takes the register write the SLC wants, once it is idle (R14, R117, R118). -/
def slcIssue (op : SlcOp) (s : State) : State :=
  let w := slcWrite op
  let s' := acceptRpe .write w.1 w.2 s
  s'.setSlc { s'.slc with stage := .await op }

/-- The two configuration calls and their answers (R116). DEDUCED: both are always made, notes/assumptions/21. -/
def configCalls (p : Config.Params) (c : Config.ConfigAnswers) : List Event :=
  [.bpConfigure p.busClockHz p.busPullups c.bus, .pinConfigureInput p.drPin c.pin]

/-- Both configuration calls were accepted (R116). -/
def bothOk (c : Config.ConfigAnswers) : Bool := decide (c.bus = .ok) && decide (c.pin = .ok)

/-- What the configuration calls leave in the platform (R22 (d), R116). -/
def sensorConfigured (c : Config.ConfigAnswers) (x : Sensor) : Sensor :=
  { x with
    busConfigured := x.busConfigured || decide (c.bus = .ok)
    pinIsInput := x.pinIsInput || decide (c.pin = .ok) }

/-- `initialize` completes by the two answers (R116): `Ok`, or `ConfigError` (R133), which is fatal (R122). -/
def configDone (c : Config.ConfigAnswers) (s : State) : State :=
  if bothOk c then
    (s.setSlc { lcState := .busConfigured, lcBusy := false, stage := .idle }).emit [.result .slc .ok]
  else raiseError .slc .config (s.setSlc { s.slc with lcState := .terminal })

/-- The SLC accepts `initialize` (R21, R116): it is busy and is to make the two configuration calls. -/
def configureStart (s : State) : State :=
  (s.setSlc { s.slc with lcBusy := true, stage := .configuring }).emit [.accept .initializeSensor]

/-- The rest of an accepted `initialize` (R116): the two calls and the end. The SLC makes them at its first turn at which
the engine is idle (R57, R83), notes/assumptions/27. -/
def configure (s : State) : State :=
  configDone s.config
    ((s.afterConfig.setSensor (sensorConfigured s.config s.sensor)).emit (configCalls s.cfg s.config))

/-- `initialize` (R116): accepted whatever the RPE does, since R116 and R121 ask for `lc_busy` and `lc_state` only; while a
session is open (R57) or a read settles (R83) its two calls wait. DESIGN CHOICE, notes/assumptions/27. -/
def execInitializeSensor (s : State) : Host.Outcome State Fault Refusal :=
  if s.slc.lcBusy then .next (holdSlc 0#2 s)
  else if s.slc.lcState = .uninitialized then .next (configureStart s)
  else .refused .lifecycleState

/-- `enableDataFeed` (R117). -/
def execEnableDataFeed (s : State) : Host.Outcome State Fault Refusal := presentSlc .enableDataFeed s

/-- `clearStatusFlags` (R118). -/
def execClearStatusFlags (s : State) : Host.Outcome State Fault Refusal := presentSlc .clearStatusFlags s

end Sys2Proof.Machine
end

