-- ==== Sys2Proof/Machine/Trd.lean ====
section
/-! DEFINITION. The touch-report decoder's command (R100). The TRD is a pure function and no agent (R9): whoever
presents a packet has the report in the same step. -/

namespace Sys2Proof.Machine

/-- `decode raw[0..5]` (R100): the report is returned to the caller and nothing else happens (R109, R113). The trace
shows the report as a `Result` of the TRD: R24 says only `Result(unit, r)` and names no units, and vector P2 of
95_test_vectors.md lists the report without a name for the event. DESIGN CHOICE, notes/assumptions/12. -/
def execDecode (raw : Packet) (s : State) : Host.Outcome State Fault Refusal :=
  let r := CmdResult.report (decodeReport s.cfg raw)
  .next ((s.emit [.result .trd r]).answer r)

end Sys2Proof.Machine
end

