-- ==== Sys2Proof/Machine/Dispatch.lean ====
section
/-! DEFINITION. One arm per command. -/

namespace Sys2Proof.Machine

def exec (i : Instr) (s : State) : Host.Outcome State Fault Refusal :=
  match i with
  | .writeRegister addr value => Sys2Proof.Machine.execWriteRegister addr value s
  | .readRegister addr low => Sys2Proof.Machine.execReadRegister addr low s
  | .decode raw => Sys2Proof.Machine.execDecode raw s
  | .isDataReady level => Sys2Proof.Machine.execIsDataReady level s
  | .initializeSensor => Sys2Proof.Machine.execInitializeSensor s
  | .enableDataFeed => Sys2Proof.Machine.execEnableDataFeed s
  | .clearStatusFlags => Sys2Proof.Machine.execClearStatusFlags s

end Sys2Proof.Machine
end

