-- ==== Sys2Proof/Machine/Program.lean ====
section
/-! DEFINITION. The host (R9, R66, R67, R112): what a statement of a program makes it do, the pseudo-instructions,
how the bytes of a packet are gathered, and the host's turns. The host is one of the machine's agents and no part of the
block. -/

namespace Sys2Proof.Machine

/-- The register address of an address expression (R66). What `PKT_BASE + n` is when the sum passes 0x7F the spec does
not say: it is ill formed (`AddrExpr.wf`), and here it wraps at ADDR_W bits. DESIGN CHOICE, notes/assumptions/30. -/
def addrOf (p : Config.Params) (a : AddrExpr) : RegAddr := BitVec.ofNat 7 (a.value p)

/-- A register write of an SLC command as an RPE command (R67). -/
def slcExpansion (op : SlcOp) : List HostAction :=
  let w := slcWrite op
  match op with
  | .enableDataFeed => [.present (.writeRegister w.1 w.2)]
  | .clearStatusFlags => [.present (.writeRegister w.1 w.2), .suspend doc.tPostClear]

/-- `readPacket` (R67, R112): as many reads of RD_BURST bytes as PKT_LEN takes, from PKT_BASE upwards; by the defaults
three, at PKT_BASE, PKT_BASE + 2, PKT_BASE + 4. -/
def readPacket (p : Config.Params) : List HostAction :=
  (List.range (readCount p)).map
    (fun k => .present (.readRegister (addrOf p (.pktBase (doc.rdBurst * k))) 0))

/-- What a statement makes the host do, in order (R66, R67). -/
def assemble (p : Config.Params) : Stmt → List HostAction
  | .writeRegister a v => [.present (.writeRegister (addrOf p a) (BitVec.ofNat 8 v))]
  | .readRegister a => [.present (.readRegister (addrOf p a) 0)]
  | .isDataReady => [.sample]
  | .decode bs => [.present (.decode (packetOfList (bs.map (BitVec.ofNat 8))))]
  | .initializeSensor => [.present .initializeSensor]
  | .enableDataFeed => [.present .enableDataFeed]
  | .clearStatusFlags => [.present .clearStatusFlags]
  | .suspend n => [.suspend n]
  | .readPacket => readPacket p

/-- The actions of a program, in order (R66). -/
def assembleProgram (p : Config.Params) (ss : List Stmt) : List HostAction := ss.flatMap (assemble p)

/-- The bytes of the results of some reads, in the order received (R112); none if one of them is no pair of bytes. -/
def gatherBytes : List CmdResult → Option (List Byte)
  | [] => some []
  | .okPair h l :: rs => (gatherBytes rs).map (fun bs => h :: l :: bs)
  | _ :: _ => none

/-- The packet gathered from the results of the reads of `readPacket` (R112): the first PKT_LEN bytes; if any of the
reads failed there is none. That the last read's low byte is dropped for an odd PKT_LEN is a DESIGN CHOICE,
notes/assumptions/15. -/
def gatherPacket (p : Config.Params) (rs : List CmdResult) : Option Packet :=
  if rs.length = readCount p then (gatherBytes rs).map (fun bs => packetOfList (bs.take p.pktLen)) else none

/-! ### The host's turns -/

/-- The host awaits the result of the command it has presented to `u` (R66: statements run in order). -/
def hostAwait (u : BlockUnit) (s : State) : State := s.setHost { s.host with wait := .result u s.trace.length }

/-- The host presents a command (R8, R14). An RPE or SLC command joins those that wait at its port and its result is
awaited; a pure command is evaluated at once, and the host never waits for it (R9, R96, R109). -/
def hostCommand (i : Instr) (s : State) : Host.Outcome State Fault Refusal :=
  match encode i with
  | .cmd16 w => .next (hostAwait .rpe (holdRpe w s))
  | .lc2 w => .next (hostAwait .slc (holdSlc w s))
  | .pkt48 _ => exec i s
  | .pin1 _ => exec i s

/-- One action of the host. A sample's level is the environment's answer at that moment (R95, R96); a suspension is
asked of the timing primitive (R66, R160). -/
def hostDo (a : HostAction) (s : State) : Host.Outcome State Fault Refusal :=
  match a with
  | .present i => hostCommand i s
  | .sample => hostCommand (.isDataReady s.level) s.afterLevel
  | .suspend n => .next ((s.setHost { s.host with wait := .timer s.clock.now n }).emit [.tpSuspend .host n])

/-- The first result of a unit among some events. -/
def resultOf (u : BlockUnit) : List Event → Option CmdResult
  | [] => none
  | .result v r :: es => if v = u then some r else resultOf u es
  | _ :: es => resultOf u es

/-- The error of a result, if it is one. -/
def CmdResult.error : CmdResult → Option ErrorKind
  | .err e => some e
  | .ok => none
  | .okPair _ _ => none
  | .level _ => none
  | .report _ => none

/-- The host takes a result: an error ends the program with it, anything else lets it go on (R66). -/
def hostTake (r : CmdResult) (h : HostFlow) : HostFlow :=
  match r.error with
  | some e => { program := [], wait := .ready, failed := some e, last := some r }
  | none => { h with wait := .ready, last := some r }

/-- The host's turn: it takes the result it awaits once that is there, or does the next action of its program. -/
def hostTurn (s : State) : Host.Outcome State Fault Refusal :=
  match s.host.wait with
  | .ready => match s.host.program with
    | [] => .next s
    | a :: rest => hostDo a (s.setHost { s.host with program := rest })
  | .result u since => match resultOf u (s.trace.drop since) with
    | none => .next s
    | some r => .next (s.setHost (hostTake r s.host))
  | .timer _ _ => .next s

/-- When the host's suspension ends if the timing primitive ends it now (R160). -/
def State.hostTimerEnd (s : State) (since units : Nat) : Nat := resumeTime s.cfg s.clock.now since units s.delay

/-- The timing primitive's turn for the host's own suspension: it ends it no earlier than asked for (R66, R160). A
session may be open meanwhile; if the suspension would end after that session's deadline, the session ends first
(R132). -/
def hostTimerTurn (s : State) : State :=
  match s.host.wait with
  | .timer since units =>
    if s.mayReach (s.hostTimerEnd since units) then
      ((s.afterDelay.setHost { s.host with wait := .ready }).setClock
        { s.clock with now := s.hostTimerEnd since units }).emit [.tpResume .host]
    else s
  | .ready => s
  | .result _ _ => s

/-- A program given to the host, to be run from its first statement. It is not checked: `Stmt.wf` says which statements are
well formed. DESIGN CHOICE, notes/assumptions/30. -/
def State.withProgram (s : State) (ss : List Stmt) : State :=
  s.setHost { program := assembleProgram s.cfg ss, wait := .ready, failed := none, last := none }

end Sys2Proof.Machine
end

