-- ==== Sys2Proof/Machine/Turns.lean ====
section
/-! DEFINITION. What each agent does when it is its turn (R9), and how a word of the opcode table is presented. The
block fetches nothing (R12, R155): a unit takes the oldest word waiting at its port when it is free. An agent that
can do nothing leaves the machine as it is. -/

namespace Sys2Proof.Machine

/-- The RPE's turn: idle, it takes a command from its port (R14); in a session, it takes the session's next step; in
the settling delay it has no step of its own (R172). -/
def rpeTurn (s : State) : Host.Outcome State Fault Refusal :=
  match s.rpe.phase with
  | .idle => match s.ports.rpe with
    | [] => .next s
    | w :: ws => exec (decodeCmd16 w) (s.setPorts { s.ports with rpe := ws })
  | .wrSession => .next (sessionStep .w s)
  | .rdPtrSession => .next (sessionStep .p s)
  | .rdSettle => .next s
  | .rdDataSession => .next (sessionStep .d s)

/-- The SLC's turn: free, it takes a command from its port (R61, R63); in `initialize` it makes the configuration calls
(R116) once the engine is idle, so that none falls into a session (R57, D5) or between the two sessions of a read (R83);
wanting the RPE, it gets it once that is idle; awaiting a result or a resumption, it waits (R21). That the
reserved word `11`, presented while the SLC is busy, is refused only once the SLC is free is a DESIGN CHOICE: R63 and R121
do not say when, notes/assumptions/16. -/
def slcTurn (s : State) : Host.Outcome State Fault Refusal :=
  if s.slc.lcBusy then
    match s.slc.stage with
    | .configuring => if s.busy then .next s else .next (configure s)
    | .request op => if s.busy then .next s else .next (slcIssue op s)
    | .await _ => .next s
    | .postClear => .next s
    | .idle => .next s
  else match s.ports.slc with
    | [] => .next s
    | w :: ws => match decodeLc2 w with
      | .ok i => exec i (s.setPorts { s.ports with slc := ws })
      | .error _ => .refused .reservedLc2

/-- The timing primitive's turn for the settling delay: it alone ends it (R172). -/
def settleTimerTurn (s : State) : State :=
  match s.rpe.phase with
  | .rdSettle => resumeSettle s
  | _ => s

/-- The timing primitive's turn for the post-clear delay (R119). A session may be open meanwhile; if the delay would end
after that session's deadline, the session ends first (R132). -/
def postClearTimerTurn (s : State) : State :=
  match s.slc.stage with
  | .postClear => if s.mayReach s.postClearEnd then resumePostClear s else s
  | _ => s

/-- One agent's turn. -/
def takeTurn (a : Config.Agent) (s : State) : Host.Outcome State Fault Refusal :=
  match a with
  | .host => hostTurn s
  | .rpe => rpeTurn s
  | .slc => slcTurn s
  | .settleTimer => .next (settleTimerTurn s)
  | .postClearTimer => .next (postClearTimerTurn s)
  | .hostTimer => .next (hostTimerTurn s)
  | .reset => .next (blockReset s)

/-- The next turn given to an agent. -/
def giveTurn (a : Config.Agent) (s : State) : State := s.setInputs { s.inputs with turns := a :: s.inputs.turns }

/-- A word presented so that the next step runs it. A word of the RPE or of the SLC stands at its port in front of every
other, and its unit has the next turn; a pure command is the host's next action, and the host has the next turn, with
the PIN1 word as the level that the pin shows then (R9, R62). A result or a suspension that the host awaited it awaits no
more: the spec does not say what becomes of a host that presents a pure command meanwhile (R96), DESIGN CHOICE,
notes/assumptions/4. -/
def presentNext (w : PortWord) (s : State) : State :=
  match w with
  | .cmd16 w => giveTurn .rpe (s.setPorts { s.ports with rpe := w :: s.ports.rpe })
  | .lc2 w => giveTurn .slc (s.setPorts { s.ports with slc := w :: s.ports.slc })
  | .pkt48 w => giveTurn .host
      (s.setHost { s.host with program := .present (decodePkt48 w) :: s.host.program, wait := .ready })
  | .pin1 d => giveTurn .host
      ((s.setInputs { s.inputs with levels := d :: s.inputs.levels }).setHost
        { s.host with program := .sample :: s.host.program, wait := .ready })

/-- A word of the opcode table presented so that the next step runs it; a number that is no word of a port is not
presented. -/
def presentTableWord (s : State) (nbits w : Nat) : State :=
  match tablePort nbits with
  | none => s
  | some p => match portWordOfNat p w with
    | .ok w' => presentNext w' s
    | .error _ => s

end Sys2Proof.Machine
end

