-- ==== Sys2Proof/Machine/Step.lean ====
section
/-! DEFINITION. One step of the machine: the agent whose turn it is makes its move. -/

namespace Sys2Proof.Machine

/-- One step. DESIGN CHOICE of the schedule, notes/assumptions/5. -/
def step (s : State) : Host.Outcome State Fault Refusal := takeTurn s.turn s.afterTurn

/-- The state in which the very next step runs the opcode-table word `w` of `nbits` bits. DESIGN CHOICE,
notes/assumptions/4. -/
def State.withFetchWord (s : State) (nbits w : Nat) : State := presentTableWord s nbits w

end Sys2Proof.Machine
end

