-- ==== Sys2Proof/Safety.lean ====
section
/-! DEFINITION. What counts as a safe run: the allowed transitions of `phase` (R12) and `lc_state` (R115), the
invariant of the registers, and the bus protocol as an automaton that reads the trace (R57, R71, R82, R83, R88). -/

namespace Sys2Proof

/-- In a session with this answer the sensor changes nothing of its own accord, before the session's own effect (R39,
R40) or after it (R32). -/
abbrev Config.SessionAnswer.quiet (a : Config.SessionAnswer) : Prop := a.drift = [] ∧ a.later = []

namespace Machine

/-- The only transitions of `phase` (R12). -/
def phaseEdge : Phase → Phase → Bool
  | .idle, .wrSession => true
  | .idle, .rdPtrSession => true
  | .wrSession, .idle => true
  | .rdPtrSession, .rdSettle => true
  | .rdPtrSession, .idle => true
  | .rdSettle, .rdDataSession => true
  | .rdDataSession, .idle => true
  | _, _ => false

/-- The only transitions of `lc_state` (R115). -/
def lcEdge : LcState → LcState → Bool
  | .uninitialized, .busConfigured => true
  | .uninitialized, .terminal => true
  | .busConfigured, .feedEnabled => true
  | .busConfigured, .terminal => true
  | .feedEnabled, .flagsCleared => true
  | .feedEnabled, .terminal => true
  | .flagsCleared, .ready => true
  | .ready, .flagsCleared => true
  | _, _ => false

/-- The invariant of the block's registers and of RAP space. -/
structure State.Inv (s : State) : Prop where
  /-- a session is open in a session phase only (R17) -/
  open_in_session : s.rpe.sessOpen = true → s.rpe.phase.frame ≠ none
  /-- a result is present in `IDLE` only (R15) -/
  result_in_idle : s.rpe.resValid = true → s.rpe.phase = .idle
  /-- `hi_r` holds a value exactly after a read that completed `Ok` (R16) -/
  hi_holds : s.rpe.hiR.isSome = s.rpe.hasBytes
  /-- `lo_r` likewise (R16) -/
  lo_holds : s.rpe.loR.isSome = s.rpe.hasBytes
  /-- the write session belongs to a `writeRegister` (R12, R14) -/
  write_phase : s.rpe.phase = .wrSession → s.rpe.opR = .write
  /-- the other phases outside `IDLE` belong to a `readRegister` (R12, R14) -/
  read_phase : s.rpe.phase ≠ .wrSession → s.rpe.phase ≠ .idle → s.rpe.opR = .read
  /-- `lc_busy` is 1 exactly while an SLC command is in progress (R21) -/
  busy_in_command : s.slc.lcBusy = true ↔ s.slc.stage ≠ .idle
  /-- the SLC awaits a result only of its own register write (R117, R118) -/
  await_own : ∀ op, s.slc.stage = .await op →
    s.rpe.phase = .wrSession ∧ s.rpe.addrR = (slcWrite op).1 ∧ s.rpe.valR = (slcWrite op).2
  /-- a command in progress is one the lifecycle state allows (R121) -/
  request_allowed : ∀ op, s.slc.stage = .request op → slcAllowed op s.slc.lcState = true
  await_allowed : ∀ op, s.slc.stage = .await op → slcAllowed op s.slc.lcState = true
  postClear_allowed : s.slc.stage = .postClear → slcAllowed .clearStatusFlags s.slc.lcState = true
  configuring_allowed : s.slc.stage = .configuring → s.slc.lcState = .uninitialized
  /-- a session that is open is within its deadline (R132, R162) -/
  open_in_deadline : s.rpe.sessOpen = true →
    s.clock.sessionSince ≤ s.clock.now ∧ s.clock.now ≤ s.clock.sessionSince + doc.tDeadlineMs
  /-- RAP space keeps its canonical form -/
  regs_wf : s.sensor.regs.wf = true

/-! ### The bus protocol as an automaton -/

/-- Where the engine's part of a trace stands. -/
inductive Monitor where
  /-- no transaction -/
  | idle
  /-- the session `k` of a transaction on `addr` (and `value`) is to be opened -/
  | toOpen (k : FrameKind) (addr : RegAddr) (value : Byte)
  /-- the session is open; these calls are to follow before `BP.execute` -/
  | calls (k : FrameKind) (addr : RegAddr) (value : Byte) (rest : List Event)
  /-- `BP.execute` has returned; the session is to be closed -/
  | toClose (k : FrameKind) (addr : RegAddr) (value : Byte) (r : SessionResult)
  /-- the session is closed; its consequence is to follow -/
  | closed (k : FrameKind) (addr : RegAddr) (value : Byte) (r : SessionResult)
  /-- the settling delay of a read is pending -/
  | settling (addr : RegAddr) (value : Byte)
  deriving DecidableEq, Repr

/-- What `BP.execute` may return for a session of each kind (R56). -/
def resultFits : FrameKind → SessionResult → Bool
  | _, .noAck => true
  | _, .timeout => true
  | .w, .ok => true
  | .p, .ok => true
  | .d, .okBytes _ _ => true
  | .w, .okBytes _ _ => false
  | .p, .okBytes _ _ => false
  | .d, .ok => false

/-- The result a transaction ends with after a closed session; a pointer session that returned `Ok` ends none (R59,
R82, R86, R135). -/
def resultAfter : FrameKind → SessionResult → Option CmdResult
  | _, .noAck => some (.err .noAck)
  | _, .timeout => some (.err .timeout)
  | .w, .ok => some .ok
  | .d, .okBytes h l => some (.okPair h l)
  | _, _ => none

/-- The events of the other units, which the bus protocol does not concern. -/
def foreignEvent : Event → Bool
  | .accept i => match i with
    | .writeRegister _ _ => false
    | .readRegister _ _ => false
    | _ => true
  | .tpSuspend u _ => decide (u ≠ .rpe)
  | .tpResume u => decide (u ≠ .rpe)
  | .result u _ => decide (u ≠ .rpe)
  | .pinRead _ _ => true
  | _ => false

/-- One event of the engine, or one of the SLC's two configuration calls, read by the automaton; `none` is a violation of
the protocol. The configuration calls are allowed where no transaction is in flight and nowhere else: none lies between
`BP.open` and `BP.close` of a session (R57, I3) or between the two sessions of a read (R83, I4). -/
def Monitor.ownEvent (p : Config.Params) : Monitor → Event → Option Monitor
  | .idle, .accept (.writeRegister a v) => some (.toOpen .w a v)
  | .idle, .accept (.readRegister a v) => some (.toOpen .p a v)
  | .idle, .bpConfigure _ _ _ => some .idle
  | .idle, .pinConfigureInput _ _ => some .idle
  | .toOpen k a v, .bpOpen => some (.calls k a v (frameCalls p k a v).tail)
  | .calls k a v [], .bpExecute d r =>
    if d = doc.tDeadlineMs ∧ resultFits k r = true then some (.toClose k a v r) else none
  | .calls k a v (e :: es), e' => if e = e' then some (.calls k a v es) else none
  | .toClose k a v r, .bpClose => some (.closed k a v r)
  | .closed .p a v .ok, .tpSuspend .rpe n => if n = doc.tSettle then some (.settling a v) else none
  | .closed k _ _ r, .result .rpe x => if resultAfter k r = some x then some .idle else none
  | .settling a v, .tpResume .rpe => some (.toOpen .d a v)
  | _, _ => none

/-- One event read by the automaton: the block's reset brings it back to its start, other units' events leave it
where it is. -/
def Monitor.next (p : Config.Params) (m : Monitor) (e : Event) : Option Monitor :=
  if e = .blockReset then some .idle
  else if foreignEvent e then some m
  else m.ownEvent p e

/-- A list of events read by the automaton. -/
def Monitor.run (p : Config.Params) : Monitor → List Event → Option Monitor
  | m, [] => some m
  | m, e :: es => match m.next p e with
    | some m' => Monitor.run p m' es
    | none => none

/-- Where the automaton must stand, read from the engine's registers. -/
def Rpe.monitor (r : Rpe) : Monitor :=
  match r.phase with
  | .idle => .idle
  | .wrSession => if r.sessOpen then .calls .w r.addrR r.valR [] else .toOpen .w r.addrR r.valR
  | .rdPtrSession => if r.sessOpen then .calls .p r.addrR r.valR [] else .toOpen .p r.addrR r.valR
  | .rdSettle => .settling r.addrR r.valR
  | .rdDataSession => if r.sessOpen then .calls .d r.addrR r.valR [] else .toOpen .d r.addrR r.valR

/-- The trace so far follows the bus protocol, and the engine stands where the trace says. -/
def State.Conforms (s : State) : Prop := Monitor.run s.cfg .idle s.trace = some s.rpe.monitor

/-! ### What a session's outcome makes of a command -/

/-- The `res_code` of an RPE command that ends with this outcome of its last session (R59, R130). -/
def outcomeCode : Config.SessionOutcome → ResCode
  | .ok => .ok
  | .noAck => .noAck
  | .timeout => .timeout

/-- The error of an outcome other than `Ok`, as the result the caller gets (R59); `good` is the result of `Ok`. -/
def outcomeResult (good : CmdResult) : Config.SessionOutcome → CmdResult
  | .ok => good
  | .noAck => .err .noAck
  | .timeout => .err .timeout

/-! ### The sensor DOC's round-trip property is stated for (R48) -/

/-- An oracle's answer to a session of kind `k` on the register `addr` that an echoing sensor `x` with the BURST_RULE
`burst` gives (R47, R48; ENV-ECHO of 95_test_vectors.md): `Ok`, the frame taken, nothing changed of its own accord, the
read pointer set by a pointer phase, and the bytes read are the register at the read pointer and the one that the
BURST_RULE names after it. -/
def EchoAnswer (burst : RegAddr → RegAddr) (k : FrameKind) (addr : RegAddr) (x : Sensor) (a : Config.SessionAnswer) :
    Prop :=
  a.outcome = .ok ∧ a.latched = true ∧ a.quiet ∧ (k = .p → a.ptr = addr) ∧
  (k = .d → a.b0 = x.reg x.readPtr ∧ a.b1 = x.reg (burst x.readPtr))

/-- `k` steps of the machine that end in a next state. -/
def Reaches (k : Nat) (s t : State) : Prop := Host.Core.run core k s = .next t

end Machine

end Sys2Proof
end

