-- ==== Sys2Proof/Certificates/Slice0/Obligations.lean ====
section
/-! DEFINITION. The statements for the provers. -/

open Sys2Proof Sys2Proof.Machine

/-! ### Encoding -/

/-- Decoding the word of a command gives the command back, with every operand at every value (formats of R51, R58,
R61, R62). -/
def Obligations.DecodeOfEncodeIsIdentity : Prop :=
  ∀ i : Instr, i.wf = true → decodeWord (encode i) = .ok i

/-- Every word of every port but LC2 `11` is a command, and only the one whose word it is; LC2 `11` is rejected by
name (R51, R58, R61 to R63). That a `readRegister` keeps the ignored low byte of its word, so that 0x92AB and 0x9200
are the words of two terms, is the model's choice, log entry 25 (95_test_vectors.md 3.2 calls them the same command). -/
def Obligations.EveryWordButLc2ReservedIsOneCommand : Prop :=
  ∀ w : PortWord,
    (w = .lc2 3#2 ∧ decodeWord w = .error .reservedLc2) ∨
    (w ≠ .lc2 3#2 ∧ ∃ i, decodeWord w = .ok i ∧ encode i = w ∧ ∀ j, encode j = w → j = i)

/-- CMD16 (R51), by arithmetic on the word: bit 15 is the operation, the next seven the address, the low eight the
value. -/
def Obligations.Cmd16FieldsAreWhereTheSpecPutsThem : Prop :=
  ∀ a v : Nat, a < 128 → v < 256 →
    decodeWord (.cmd16 (BitVec.ofNat 16 (256 * a + v)))
      = .ok (.writeRegister (BitVec.ofNat 7 a) (BitVec.ofNat 8 v)) ∧
    decodeWord (.cmd16 (BitVec.ofNat 16 (32768 + 256 * a + v)))
      = .ok (.readRegister (BitVec.ofNat 7 a) (BitVec.ofNat 8 v))

/-- Words written out from the spec's encodings decode to the commands they stand for, one or more per family. -/
def Obligations.SpecWordsDecode : Prop :=
  decodeWord (.cmd16 0x0401#16) = .ok (.writeRegister 0x04#7 0x01#8) ∧
  decodeWord (.cmd16 0x7FFF#16) = .ok (.writeRegister 0x7F#7 0xFF#8) ∧
  decodeWord (.cmd16 0x92AB#16) = .ok (.readRegister 0x12#7 0xAB#8) ∧
  decodeWord (.pkt48 0x2023BCE85A81#48) = .ok (.decode (packetOfBytes 0x81 0x5A 0xE8 0xBC 0x23 0x20)) ∧
  decodeWord (.pin1 1#1) = .ok (.isDataReady 1#1) ∧
  decodeWord (.lc2 0#2) = .ok .initializeSensor ∧
  decodeWord (.lc2 1#2) = .ok .enableDataFeed ∧
  decodeWord (.lc2 2#2) = .ok .clearStatusFlags

/-! ### Bytes on the bus -/

/-- The pointer bytes (R53): the mask OR'd with the address, and bit by bit; in a read pointer bit 5 of the address
does not reach the wire. -/
def Obligations.PointerBytesBitByBit : Prop :=
  ∀ a : RegAddr,
    ptrW a = 0x80#8 ||| a.zeroExtend 8 ∧ ptrW a = (1#1 ++ a : BitVec 8) ∧
    ptrR a = 0xA0#8 ||| a.zeroExtend 8 ∧
    ptrR a = (1#1 ++ a.extractLsb' 6 1 ++ 1#1 ++ a.extractLsb' 0 5 : BitVec 8)

/-- Framable addresses (R54): those up to 0x1F, exactly those disjoint from both masks whose direction can be read
back from bits 7:5; their bits 4:0 name the register; DOC's three registers are among them. -/
def Obligations.FramableAddressesKeepDirectionAndRegister : Prop :=
  (∀ a : RegAddr,
    (framable a = true ↔ a &&& 0x60#7 = 0#7) ∧ (framable a = true ↔ a.toNat ≤ 0x1F) ∧
    (framable a = true ↔
      (0x80#8 &&& a.zeroExtend 8 = 0#8 ∧ 0xA0#8 &&& a.zeroExtend 8 = 0#8 ∧
        (ptrW a).extractLsb' 5 3 = 0b100#3 ∧ (ptrR a).extractLsb' 5 3 = 0b101#3)) ∧
    (framable a = true →
      (ptrW a).extractLsb' 0 5 = a.extractLsb' 0 5 ∧ (ptrR a).extractLsb' 0 5 = a.extractLsb' 0 5 ∧
      0x80 ≤ (ptrW a).toNat ∧ (ptrW a).toNat ≤ 0x9F ∧ 0xA0 ≤ (ptrR a).toNat ∧ (ptrR a).toNat ≤ 0xBF)) ∧
  framable doc.firmverReg = true ∧ framable doc.statusReg = true ∧ framable doc.feedEnableReg = true

/-- The table of pointer bytes (R69), range by range, with its collisions. -/
def Obligations.PointerByteTable : Prop :=
  ∀ a : RegAddr,
    (a.toNat ≤ 0x1F → (ptrW a).toNat = 0x80 + a.toNat ∧ (ptrR a).toNat = 0xA0 + a.toNat) ∧
    (0x20 ≤ a.toNat → a.toNat ≤ 0x3F →
      (ptrW a).toNat = 0x80 + a.toNat ∧ (ptrR a).toNat = 0x80 + a.toNat ∧ ptrR a = ptrR (a - 0x20#7)) ∧
    (0x40 ≤ a.toNat → a.toNat ≤ 0x5F → (ptrW a).toNat = 0x80 + a.toNat ∧ (ptrR a).toNat = 0xA0 + a.toNat) ∧
    (0x60 ≤ a.toNat →
      (ptrW a).toNat = 0x80 + a.toNat ∧ (ptrR a).toNat = 0x80 + a.toNat ∧ ptrR a = ptrR (a - 0x20#7))

/-- The slave-address byte (R52) is the address above the intent bit, in all parameters. -/
def Obligations.SlaveAddressByte : Prop :=
  ∀ (p : Config.Params) (rw : BitVec 1),
    (slaByte p rw).toNat = 2 * p.slaveAddr.toNat + rw.toNat ∧
    slaByte defaultParams 0#1 = 0x54#8 ∧ slaByte defaultParams 1#1 = 0x55#8

/-! ### A step runs the decoded command -/

/-- When it is a free unit's turn and a word waits at its port that decodes to a command, the step is `exec` of that
command, in the state in which the turn and the word have been taken; an LC2 `11` is refused by name. A pure command is
run at the host's own turn (R9, R96, R109): a packet that its program presents, or a sample, for which the level is the
environment's answer at that step. The schedule and the ports are the model's, log entries 5 and 8, the host's program
log entry 18. -/
def Obligations.StepRunsTheWordAtThePort : Prop :=
  ∀ s : State,
    (∀ w ws i, s.turn = .rpe → s.rpe.phase = .idle → s.ports.rpe = w :: ws → decodeWord (.cmd16 w) = .ok i →
      step s = exec i (s.afterTurn.setPorts { s.ports with rpe := ws })) ∧
    (∀ w ws i, s.turn = .slc → s.slc.lcBusy = false → s.ports.slc = w :: ws → decodeWord (.lc2 w) = .ok i →
      step s = exec i (s.afterTurn.setPorts { s.ports with slc := ws })) ∧
    (∀ w i rest, s.turn = .host → s.host.wait = .ready → decodeWord (.pkt48 w) = .ok i →
      s.host.program = .present i :: rest →
      step s = exec i (s.afterTurn.setHost { s.host with program := rest })) ∧
    (∀ i rest, s.turn = .host → s.host.wait = .ready → s.host.program = .sample :: rest →
      decodeWord (.pin1 s.afterTurn.level) = .ok i →
      step s = exec i (s.afterTurn.setHost { s.host with program := rest }).afterLevel) ∧
    (∀ w ws, s.turn = .slc → s.slc.lcBusy = false → s.ports.slc = w :: ws →
      decodeWord (.lc2 w) = .error .reservedLc2 → step s = .refused .reservedLc2)

/-! ### The engine: accepting and holding -/

/-- Acceptance of an RPE command in `IDLE` (R14), at every address when STRICT_ADDR is false (R64): the operands are
latched, the old result is gone (R169), the phase is the session's; and its frame: nothing else of the machine
changes, but that a read begins a report cycle in `FlagsCleared` (R120). That the field `res_code` stays is the
model's choice, log entry 22. -/
def Obligations.AcceptanceLatchesOperandsAndNothingElse : Prop :=
  ∀ (s : State) (a : RegAddr) (v : Byte),
    s.rpe.phase = .idle → (s.cfg.strictAddr = false ∨ framable a = true) →
    (∃ t, exec (.writeRegister a v) s = .next t ∧
      t.rpe = { opR := .write, addrR := a, valR := v, phase := .wrSession, sessOpen := s.rpe.sessOpen,
                resValid := false, resCode := s.rpe.resCode, hiR := none, loR := none } ∧
      t.slc = s.slc ∧ t.ports = s.ports ∧ t.sensor = s.sensor ∧ t.inputs = s.inputs ∧ t.clock = s.clock ∧
      t.cfg = s.cfg ∧ t.host = s.host ∧ t.trace = s.trace ++ [.accept (.writeRegister a v)]) ∧
    (∃ t, exec (.readRegister a v) s = .next t ∧
      t.rpe = { opR := .read, addrR := a, valR := v, phase := .rdPtrSession, sessOpen := s.rpe.sessOpen,
                resValid := false, resCode := s.rpe.resCode, hiR := none, loR := none } ∧
      t.slc = { s.slc with
        lcState := if s.slc.lcState = .flagsCleared then .ready else s.slc.lcState } ∧
      t.ports = s.ports ∧ t.sensor = s.sensor ∧ t.inputs = s.inputs ∧ t.clock = s.clock ∧
      t.cfg = s.cfg ∧ t.host = s.host ∧ t.trace = s.trace ++ [.accept (.readRegister a v)])

/-- A command presented to a busy engine is held (R14): its word joins those waiting at the port, and nothing else
changes; and no step of a busy engine takes a word from the port: those that wait stay, in their order, in front of
what the host presents meanwhile. The model's choices: that several words are held, in order (log entry 8); that they
stay when the step is a reset (log entry 13); that a busy engine holds an aliasing command also under STRICT_ADDR, to
refuse it when it would be accepted (log entry 16). -/
def Obligations.BusyEngineHoldsCommands : Prop :=
  (∀ (s : State) (a : RegAddr) (v : Byte), s.rpe.phase ≠ .idle →
    exec (.writeRegister a v) s
      = .next (s.setPorts { s.ports with rpe := s.ports.rpe ++ [a.zeroExtend 16 <<< 8 ||| v.zeroExtend 16] }) ∧
    exec (.readRegister a v) s
      = .next (s.setPorts { s.ports with rpe := s.ports.rpe ++ [0x8000#16 ||| a.zeroExtend 16 <<< 8 ||| v.zeroExtend 16] })) ∧
  (∀ s s' : State, s.rpe.phase ≠ .idle → step s = .next s' → ∃ ws, s'.ports.rpe = s.ports.rpe ++ ws)

/-- STRICT_ADDR (R64): when it is true an idle engine refuses an aliasing address, 0x20 and above, and accepts a framable
one, up to 0x1F; when it is false it accepts every address. -/
def Obligations.StrictAddrRefusesAliasingOnly : Prop :=
  ∀ (s : State) (a : RegAddr) (v : Byte), s.rpe.phase = .idle →
    (s.cfg.strictAddr = true → 0x20 ≤ a.toNat →
      exec (.writeRegister a v) s = .refused .aliasingAddress ∧
      exec (.readRegister a v) s = .refused .aliasingAddress) ∧
    (s.cfg.strictAddr = true → a.toNat ≤ 0x1F →
      (∃ t, exec (.writeRegister a v) s = .next t ∧ t.rpe.phase = .wrSession) ∧
      (∃ t, exec (.readRegister a v) s = .next t ∧ t.rpe.phase = .rdPtrSession)) ∧
    (s.cfg.strictAddr = false →
      (∃ t, exec (.writeRegister a v) s = .next t ∧ t.rpe.phase = .wrSession) ∧
      (∃ t, exec (.readRegister a v) s = .next t ∧ t.rpe.phase = .rdPtrSession))

/-! ### The engine: whole commands -/

/-- `writeRegister` completes (R70, R71): accepted, one session of exactly these calls in this order, the result by
the session's outcome, no bytes; the sensor as the session leaves it (R72, R73, R164; what the model reads or chooses
there: log entries 10, 28 and 29); its duration, at most T_DEADLINE (R171); the frame of the whole command. -/
def Obligations.WriteRegisterCompletes : Prop :=
  ∀ (s : State) (a : RegAddr) (v : Byte) (ts : List Config.Agent),
    s.Inv → s.rpe.phase = .idle → (s.cfg.strictAddr = false ∨ framable a = true) →
    s.inputs.turns = .rpe :: .rpe :: ts →
    ∃ t u w, exec (.writeRegister a v) s = .next t ∧ step t = .next u ∧ step u = .next w ∧
      (t.rpe.opR = .write ∧ t.rpe.addrR = a ∧ t.rpe.valR = v ∧ t.rpe.resValid = false ∧ t.rpe.phase = .wrSession ∧
        t.rpe.sessOpen = false) ∧
      (u.rpe.phase = .wrSession ∧ u.rpe.sessOpen = true) ∧
      w.rpe = { opR := .write, addrR := a, valR := v, phase := .idle, sessOpen := false, resValid := true,
                resCode := outcomeCode s.session.outcome, hiR := none, loR := none } ∧
      w.trace = s.trace ++
        [.accept (.writeRegister a v), .bpOpen, .bpStart,
         .bpWriteByte (slaByte s.cfg 0) .ackCheck, .bpWriteByte (0x80#8 ||| a.zeroExtend 8) .ackCheck,
         .bpWriteByte v .ackCheck, .bpStop, .bpExecute 1000 (sessionResult .w s.session), .bpClose,
         .result .rpe (outcomeResult .ok s.session.outcome)] ∧
      w.sensor = sensorAfter .w a v (sensorSettles s.cfg s.sensor s.clock.now) (s.clock.now + sessionMs s.session)
        s.session s.sensor ∧
      w.clock.now ≤ s.clock.now + 1000 ∧
      w.slc = s.slc ∧ w.ports = s.ports ∧ w.cfg = s.cfg ∧ w.host = s.host

/-- The pointer phase of `readRegister` (R81, R82): accepted, one session of exactly these calls; if it failed the
command ends at once with that error, with no suspension and no second session; if not, the settling delay begins. That the
field `res_code` then still stays is the model's choice, log entry 22. -/
def Obligations.ReadRegisterPointerPhase : Prop :=
  ∀ (s : State) (a : RegAddr) (l : Byte) (ts : List Config.Agent),
    s.Inv → s.rpe.phase = .idle → (s.cfg.strictAddr = false ∨ framable a = true) →
    s.inputs.turns = .rpe :: .rpe :: ts →
    ∃ t u w, exec (.readRegister a l) s = .next t ∧ step t = .next u ∧ step u = .next w ∧
      w.rpe = { opR := .read, addrR := a, valR := l,
                phase := if s.session.outcome = .ok then .rdSettle else .idle, sessOpen := false,
                resValid := decide (s.session.outcome ≠ .ok),
                resCode := if s.session.outcome = .ok then s.rpe.resCode else outcomeCode s.session.outcome,
                hiR := none, loR := none } ∧
      w.trace = s.trace ++
        [.accept (.readRegister a l), .bpOpen, .bpStart,
         .bpWriteByte (slaByte s.cfg 0) .ackCheck, .bpWriteByte (0xA0#8 ||| a.zeroExtend 8) .ackCheck,
         .bpStop, .bpExecute 1000 (sessionResult .p s.session), .bpClose] ++
        (if s.session.outcome = .ok then [.tpSuspend .rpe 30]
         else [.result .rpe (outcomeResult .ok s.session.outcome)]) ∧
      w.sensor = sensorAfter .p a l (sensorSettles s.cfg s.sensor s.clock.now) (s.clock.now + sessionMs s.session)
        s.session s.sensor ∧ w.ports = s.ports ∧ w.cfg = s.cfg ∧ w.host = s.host

/-- `readRegister` completes with its two bytes (R80, R83, R85, R86): the pointer phase, the settling delay of at
least T_SETTLE time units, a new session that reads two bytes, first with acknowledge-continue, second with
acknowledge-stop; `hi_r` is the first, `lo_r` the second; an error of the second session ends it without bytes
(R87). It takes at most twice T_DEADLINE and the actual delay (R171). That no older suspension, whose command a reset has ended, cuts the delay short is the model's choice, log
entry 13. -/
def Obligations.ReadRegisterCompletes : Prop :=
  ∀ (s : State) (a : RegAddr) (l : Byte) (ts : List Config.Agent),
    s.Inv → s.rpe.phase = .idle → (s.cfg.strictAddr = false ∨ framable a = true) →
    s.session.outcome = .ok → s.inputs.turns = .rpe :: .rpe :: .settleTimer :: .rpe :: .rpe :: ts →
    ∃ t u w x y z, exec (.readRegister a l) s = .next t ∧ step t = .next u ∧ step u = .next w ∧ step w = .next x ∧
      step x = .next y ∧ step y = .next z ∧
      (t.rpe.phase = .rdPtrSession ∧ u.rpe.phase = .rdPtrSession ∧ u.rpe.sessOpen = true ∧
        w.rpe.phase = .rdSettle ∧ w.rpe.sessOpen = false ∧ x.rpe.phase = .rdDataSession ∧ x.rpe.sessOpen = false ∧
        y.rpe.phase = .rdDataSession ∧ y.rpe.sessOpen = true) ∧
      z.rpe = { opR := .read, addrR := a, valR := l, phase := .idle, sessOpen := false, resValid := true,
                resCode := outcomeCode y.session.outcome,
                hiR := if y.session.outcome = .ok then some y.session.b0 else none,
                loR := if y.session.outcome = .ok then some y.session.b1 else none } ∧
      z.trace = s.trace ++
        [.accept (.readRegister a l), .bpOpen, .bpStart,
         .bpWriteByte (slaByte s.cfg 0) .ackCheck, .bpWriteByte (0xA0#8 ||| a.zeroExtend 8) .ackCheck,
         .bpStop, .bpExecute 1000 .ok, .bpClose, .tpSuspend .rpe 30, .tpResume .rpe,
         .bpOpen, .bpStart, .bpWriteByte (slaByte s.cfg 1) .ackCheck, .bpReadByte .ackContinue,
         .bpReadByte .ackStop, .bpStop, .bpExecute 1000 (sessionResult .d y.session), .bpClose,
         .result .rpe (outcomeResult (.okPair y.session.b0 y.session.b1) y.session.outcome)] ∧
      w.clock.now + 30 * s.cfg.tUnitMs ≤ x.clock.now ∧
      s.clock.now + 30 * s.cfg.tUnitMs ≤ z.clock.now ∧
      z.clock.now ≤ s.clock.now + 2 * 1000 + (x.clock.now - w.clock.now) ∧
      z.ports = s.ports ∧ z.cfg = s.cfg

/-- In the settling delay (R84, R172) only the timing primitive, or a reset, gives the engine a step: whatever else
happens, its registers and the commands held at its port stay. That several held commands stay in their order and new
ones come behind them is the model's choice, log entry 8. -/
def Obligations.OnlyTheTimerEndsTheSettlingDelay : Prop :=
  ∀ s s' : State, s.rpe.phase = .rdSettle → s.turn ≠ .settleTimer → s.turn ≠ .reset → step s = .next s' →
    s'.rpe = s.rpe ∧ ∃ ws, s'.ports.rpe = s.ports.rpe ++ ws

/-- The timing primitive ends the settling delay no earlier than T_SETTLE time units after it was asked for (R83, R160),
and changes nothing but the phase, the time and the trace; the answer to how late it came is used up. That no older
suspension, whose command a reset has ended, cuts the delay short is the model's choice, log entry 13. -/
def Obligations.SettlingDelayLastsItsMinimum : Prop :=
  ∀ s : State, s.rpe.phase = .rdSettle → s.turn = .settleTimer →
    ∃ s', step s = .next s' ∧ s'.rpe = { s.rpe with phase := .rdDataSession } ∧
      s.clock.settleSince + 30 * s.cfg.tUnitMs ≤ s'.clock.now ∧ s.clock.now ≤ s'.clock.now ∧
      s'.slc = s.slc ∧ s'.ports = s.ports ∧ s'.sensor = s.sensor ∧ s'.trace = s.trace ++ [.tpResume .rpe] ∧
      s'.host = s.host ∧ s'.cfg = s.cfg

/-- Outcomes and errors (R131, R132, R134, R138): a session of any kind that ends in `NoAck` or `Timeout` leaves the
engine idle, the session closed, the error present as the result, and no bytes; it ends within T_DEADLINE of its
opening (R132, R162), where the invariant holds. -/
def Obligations.FailedSessionCompletesWithItsError : Prop :=
  ∀ (s : State) (k : FrameKind),
    s.turn = .rpe → s.rpe.phase.frame = some k → s.rpe.sessOpen = true → s.afterTurn.session.outcome ≠ .ok →
    ∃ s', step s = .next s' ∧ s'.rpe.phase = .idle ∧ s'.rpe.sessOpen = false ∧ s'.rpe.resValid = true ∧
      s'.rpe.resCode = outcomeCode s.afterTurn.session.outcome ∧ s'.rpe.hiR = none ∧ s'.rpe.loR = none ∧
      s'.rpe.opR = s.rpe.opR ∧ s'.rpe.addrR = s.rpe.addrR ∧ s'.rpe.valR = s.rpe.valR ∧
      (s.Inv → s'.clock.now ≤ s.clock.sessionSince + 1000) ∧ s'.ports = s.ports ∧ s'.cfg = s.cfg

/-- What a session does to the sensor (R46, R72, R81), in every state in which one is executed. A write session that
returned `Ok`, not too early after a STATUS clear, leaves STATUS or FEED_ENABLE with the value (R32, R72), and every other
framable register but FIRMVER, unless the sensor changed it afterwards. Where the sensor changes
nothing of its own accord, a write session leaves the addressed register with the value or as it was, every other
register is as before, and a pointer or a read session changes none. A pointer session that returned `Ok` at a framable
address, not too early, sets the read pointer. The platform's configuration is as before. How R72 and R32 go
together at an address that DOC does not call written is the model's reading, log entry 28; that the sensor's own changes are listed with the answer, log entry 10; `early`, log entry 29. -/
def Obligations.SessionsWriteOnlyTheAddressedRegister : Prop :=
  ∀ (s s' : State) (k : FrameKind),
    s.turn = .rpe → s.rpe.phase.frame = some k → s.rpe.sessOpen = true → step s = .next s' →
    (k = .w → s.afterTurn.session.outcome = .ok → sensorSettles s.cfg s.sensor s.clock.sessionSince = false →
      framable s.rpe.addrR = true → s.rpe.addrR ≠ 0x01#7 →
      (s.rpe.addrR = 0x02#7 ∨ s.rpe.addrR = 0x04#7 ∨ s.afterTurn.session.later = []) →
      s'.sensor.reg s.rpe.addrR = s.rpe.valR) ∧
    (k = .w → s.afterTurn.session.quiet →
      s'.sensor.reg s.rpe.addrR = s.rpe.valR ∨ s'.sensor.reg s.rpe.addrR = s.sensor.reg s.rpe.addrR) ∧
    (s.afterTurn.session.quiet → ∀ x : RegAddr, (k = .w → x ≠ s.rpe.addrR) →
      s'.sensor.reg x = s.sensor.reg x) ∧
    (k = .p → s.afterTurn.session.outcome = .ok → sensorSettles s.cfg s.sensor s.clock.sessionSince = false →
      framable s.rpe.addrR = true → s'.sensor.readPtr = s.rpe.addrR) ∧
    s'.sensor.busConfigured = s.sensor.busConfigured ∧ s'.sensor.pinIsInput = s.sensor.pinIsInput

/-- A write session that failed (R73) leaves the addressed register as it was or with the value, as the oracle
chooses, where the sensor changes nothing of its own accord. -/
def Obligations.FailedWriteLeavesOldOrNewValue : Prop :=
  ∀ s s' : State,
    s.turn = .rpe → s.rpe.phase = .wrSession → s.rpe.sessOpen = true → s.afterTurn.session.outcome ≠ .ok →
    framable s.rpe.addrR = true → s.afterTurn.session.quiet → step s = .next s' →
    (s.afterTurn.session.latched = false → s'.sensor.regs = s.sensor.regs) ∧
    (s.afterTurn.session.latched = true → s'.sensor.reg s.rpe.addrR = s.rpe.valR)

/-- The round trip (R48): on an echoing sensor with any BURST_RULE (R47), for every framable address, a write and then a
read of it, both `Ok` and with no access between, return the value written as the first byte; the second is what the
register that the BURST_RULE names after it held before, or the value if it names the same. -/
def Obligations.RoundTripOnAnEchoingSensor : Prop :=
  ∀ (burst : RegAddr → RegAddr) (s t w r x z : State) (a : RegAddr) (v l : Byte) (aw ap ad : Config.SessionAnswer)
    (as : List Config.SessionAnswer) (ts : List Config.Agent),
    s.Inv → s.rpe.phase = .idle → framable a = true →
    s.inputs.sessions = aw :: ap :: ad :: as →
    s.inputs.turns = .rpe :: .rpe :: .rpe :: .rpe :: .settleTimer :: .rpe :: .rpe :: ts →
    EchoAnswer burst .w a s.sensor aw → exec (.writeRegister a v) s = .next t → Reaches 2 t w →
    EchoAnswer burst .p a w.sensor ap → exec (.readRegister a l) w = .next r → Reaches 4 r x →
    EchoAnswer burst .d a x.sensor ad → Reaches 1 x z →
    z.rpe.phase = .idle ∧ z.rpe.resCode = .ok ∧ z.readHi = .ok v ∧
    z.readLo = .ok (if burst a = a then v else s.sensor.reg (burst a))

/-! ### The decoder -/

/-- `decode` (R100 to R108) at every packet of six bytes, with the default layout and any TOUCH_BIT, BUTTON_MASK and
Z_MASK: the five fields by arithmetic on the bytes; and its frame (R109): the report is returned to the caller and
nothing else of the machine changes. The event that shows it in the trace is the model's choice, log entry 12. -/
def Obligations.DecodeDeliversTheReport : Prop :=
  ∀ (s : State) (b0 b1 b2 b3 b4 b5 : Byte), s.cfg.layout = defaultLayout →
    ∃ r : PositionReport,
      exec (.decode (packetOfBytes b0 b1 b2 b3 b4 b5)) s =
        .next ((s.emit [.result .trd (.report r)]).answer (.report r)) ∧
      r.xValue.toNat = max 127 (min 1919 (256 * (b4.toNat % 16) + b2.toNat)) ∧
      r.yValue.toNat = max 63 (min 1471 (256 * (b4.toNat / 16) + b3.toNat)) ∧
      r.zValue = (b5 &&& s.cfg.zMask).zeroExtend 16 ∧
      r.buttonFlags = b0 &&& s.cfg.buttonMask ∧
      r.touchDown = b0.getLsbD s.cfg.touchBit

/-- The clipping law (R106, R107) under every layout and every mask: below the window the lower bound, above it the
upper bound, inside it unchanged; so every reported coordinate lies in the window. -/
def Obligations.CoordinatesAreClippedToTheWindow : Prop :=
  ∀ (p : Config.Params) (P : Packet),
    ((xRaw p P).toNat < 127 → (decodeReport p P).xValue.toNat = 127) ∧
    (1919 < (xRaw p P).toNat → (decodeReport p P).xValue.toNat = 1919) ∧
    (127 ≤ (xRaw p P).toNat → (xRaw p P).toNat ≤ 1919 → (decodeReport p P).xValue = xRaw p P) ∧
    ((yRaw p P).toNat < 63 → (decodeReport p P).yValue.toNat = 63) ∧
    (1471 < (yRaw p P).toNat → (decodeReport p P).yValue.toNat = 1471) ∧
    (63 ≤ (yRaw p P).toNat → (yRaw p P).toNat ≤ 1471 → (decodeReport p P).yValue = yRaw p P) ∧
    127 ≤ (decodeReport p P).xValue.toNat ∧ (decodeReport p P).xValue.toNat ≤ 1919 ∧
    63 ≤ (decodeReport p P).yValue.toNat ∧ (decodeReport p P).yValue.toNat ≤ 1471

/-- The ignored bits (R110): with the parameters at their defaults, two packets that agree outside bit 6 of `raw[0]`,
`raw[1]` and bits 7:6 of `raw[5]` decode to the same report. -/
def Obligations.IgnoredPacketBitsDoNotMatter : Prop :=
  ∀ P Q : Packet, P &&& 0x3FFFFFFF00BF#48 = Q &&& 0x3FFFFFFF00BF#48 →
    decodeReport defaultParams P = decodeReport defaultParams Q

/-! ### The data-ready monitor -/

/-- `isDataReady` (R95, R96) at any time and for both polarities: it answers whether the level is the active one; in the
trace it is one `PIN.read` and nothing else, and nothing of the machine changes but what the caller has. -/
def Obligations.IsDataReadyAnswersThePinLevel : Prop :=
  ∀ (s : State) (d : Level),
    (d = s.cfg.drActiveLevel →
      exec (.isDataReady d) s = .next ((s.emit [.pinRead s.cfg.drPin d]).answer (.level true))) ∧
    (d ≠ s.cfg.drActiveLevel →
      exec (.isDataReady d) s = .next ((s.emit [.pinRead s.cfg.drPin d]).answer (.level false)))

/-! ### The lifecycle controller -/

/-- `initialize` (R116, R21) from `Uninitialized` with the engine idle: accepted, the SLC is busy; at its next turn both
configuration calls are made and no other, and `lc_busy` is 0 again: `BusConfigured` and `Ok` when both were accepted,
`Terminal` and `ConfigError` when not; nothing is sent to the sensor's registers. Accepted while a transaction is in
flight, it waits at every turn of the SLC, with nothing called (R57, R83), until the engine is idle, and then ends in the
same way. That it waits so is the model's choice, log entry 27; that the error also shows in the engine's result fields
its reading, log entry 9. -/
def Obligations.InitializeCompletes : Prop :=
  (∀ (s : State) (ts : List Config.Agent), s.slc.lcBusy = false → s.slc.lcState = .uninitialized →
    s.rpe.phase = .idle → s.inputs.turns = .slc :: ts →
    ∃ t u, exec .initializeSensor s = .next t ∧ step t = .next u ∧
      (t.slc.lcBusy = true ∧ t.slc.lcState = .uninitialized) ∧
      u.slc = { lcState := if s.config.bus = .ok ∧ s.config.pin = .ok then .busConfigured else .terminal,
                lcBusy := false, stage := .idle } ∧
      u.trace = s.trace ++
        [.accept .initializeSensor, .bpConfigure s.cfg.busClockHz s.cfg.busPullups s.config.bus,
         .pinConfigureInput s.cfg.drPin s.config.pin,
         .result .slc (if s.config.bus = .ok ∧ s.config.pin = .ok then .ok else .err .config)] ∧
      (s.config.bus = .ok ∧ s.config.pin = .ok → u.rpe = s.rpe) ∧
      (¬ (s.config.bus = .ok ∧ s.config.pin = .ok) →
        u.rpe = { s.rpe with resValid := true, resCode := .config, hiR := none, loR := none }) ∧
      (s.config.bus = .ok → u.sensor.busConfigured = true) ∧ (s.config.pin = .ok → u.sensor.pinIsInput = true) ∧
      u.sensor.regs = s.sensor.regs ∧ u.sensor.readPtr = s.sensor.readPtr ∧ u.ports = s.ports ∧
      u.clock = s.clock ∧ u.cfg = s.cfg ∧ u.host = s.host) ∧
  (∀ s : State, s.slc.lcBusy = true → s.slc.stage = .configuring → s.turn = .slc →
    (s.rpe.phase ≠ .idle → step s = .next s.afterTurn) ∧
    (s.rpe.phase = .idle → ∃ u, step s = .next u ∧ u.slc.lcBusy = false ∧
      u.slc.lcState =
        (if s.afterTurn.config.bus = .ok ∧ s.afterTurn.config.pin = .ok then .busConfigured else .terminal) ∧
      u.trace = s.trace ++
        [.bpConfigure s.cfg.busClockHz s.cfg.busPullups s.afterTurn.config.bus,
         .pinConfigureInput s.cfg.drPin s.afterTurn.config.pin,
         .result .slc
          (if s.afterTurn.config.bus = .ok ∧ s.afterTurn.config.pin = .ok then .ok else .err .config)]))

/-- `enableDataFeed` (R76, R117) from `BusConfigured` with the engine idle: the SLC is busy, the RPE accepts
`writeRegister 0x04, 0x01`, runs its one session, and by its outcome the SLC is in `FeedEnabled` or in `Terminal`
with the error; `lc_busy` is 1 from acceptance to completion; after `Ok` the sensor's register 0x04 holds 0x01, unless
the write came too early after a STATUS clear, when the effect is the oracle's (R164, log entry 29). -/
def Obligations.EnableDataFeedCompletes : Prop :=
  ∀ (s : State) (ts : List Config.Agent),
    s.Inv → s.slc.lcBusy = false → s.slc.lcState = .busConfigured → s.rpe.phase = .idle →
    s.inputs.turns = .slc :: .rpe :: .rpe :: ts →
    ∃ t u w x, exec .enableDataFeed s = .next t ∧ step t = .next u ∧ step u = .next w ∧ step w = .next x ∧
      (t.slc.lcBusy = true ∧ u.slc.lcBusy = true ∧ w.slc.lcBusy = true ∧ t.rpe = s.rpe ∧
        u.rpe.opR = .write ∧ u.rpe.phase = .wrSession) ∧
      x.slc = { lcState := if s.session.outcome = .ok then .feedEnabled else .terminal, lcBusy := false,
                stage := .idle } ∧
      x.rpe = { opR := .write, addrR := 0x04#7, valR := 0x01#8, phase := .idle, sessOpen := false,
                resValid := true, resCode := outcomeCode s.session.outcome, hiR := none, loR := none } ∧
      x.trace = s.trace ++
        [.accept .enableDataFeed, .accept (.writeRegister 0x04#7 0x01#8), .bpOpen, .bpStart,
         .bpWriteByte (slaByte s.cfg 0) .ackCheck, .bpWriteByte 0x84#8 .ackCheck, .bpWriteByte 0x01#8 .ackCheck,
         .bpStop, .bpExecute 1000 (sessionResult .w s.session), .bpClose,
         .result .rpe (outcomeResult .ok s.session.outcome), .result .slc (outcomeResult .ok s.session.outcome)] ∧
      (s.session.outcome = .ok → sensorSettles s.cfg s.sensor s.clock.now = false →
        x.sensor.reg 0x04#7 = 0x01#8) ∧ x.ports = s.ports ∧ x.cfg = s.cfg ∧ x.host = s.host

/-- `clearStatusFlags` (R118, R119) from a state that allows it with the engine idle, when its write completes `Ok`:
after the write of 0x00 to 0x02 the SLC stays busy for at least T_POSTCLEAR time units, sends nothing, and only then
is in `FlagsCleared` and delivers its result; it takes at most T_DEADLINE and the actual delay (R171). The sensor's settling (R164) began at the end of the write's session and is
over then, if no clear lies ahead that a reset has cut off (R153): that it is counted from there is the model's reading, log entry 29. That no older suspension, whose command a
reset has ended, cuts the delay short is its choice, log entry 13. -/
def Obligations.ClearStatusFlagsCompletes : Prop :=
  ∀ (s : State) (ts : List Config.Agent),
    s.Inv → s.slc.lcBusy = false →
    (s.slc.lcState = .feedEnabled ∨ s.slc.lcState = .ready ∨ s.slc.lcState = .flagsCleared) →
    s.rpe.phase = .idle → s.session.outcome = .ok →
    s.inputs.turns = .slc :: .rpe :: .rpe :: .postClearTimer :: ts →
    ∃ t u w x y, exec .clearStatusFlags s = .next t ∧ step t = .next u ∧ step u = .next w ∧ step w = .next x ∧
      step x = .next y ∧
      (t.slc.lcBusy = true ∧ u.slc.lcBusy = true ∧ w.slc.lcBusy = true ∧ x.slc.lcBusy = true ∧
        x.slc.lcState = s.slc.lcState ∧ x.rpe.phase = .idle ∧ x.rpe.sessOpen = false) ∧
      y.slc = { lcState := .flagsCleared, lcBusy := false, stage := .idle } ∧
      y.rpe = { opR := .write, addrR := 0x02#7, valR := 0x00#8, phase := .idle, sessOpen := false,
                resValid := true, resCode := .ok, hiR := none, loR := none } ∧
      y.trace = s.trace ++
        [.accept .clearStatusFlags, .accept (.writeRegister 0x02#7 0x00#8), .bpOpen, .bpStart,
         .bpWriteByte (slaByte s.cfg 0) .ackCheck, .bpWriteByte 0x82#8 .ackCheck, .bpWriteByte 0x00#8 .ackCheck,
         .bpStop, .bpExecute 1000 .ok, .bpClose, .result .rpe .ok, .tpSuspend .slc 50, .tpResume .slc,
         .result .slc .ok] ∧
      x.clock.now + 50 * s.cfg.tUnitMs ≤ y.clock.now ∧ x.clock.now ≤ s.clock.now + 1000 ∧
      ((∀ c, s.sensor.clearedAt = some c → c ≤ x.clock.now) →
        y.sensor.clearedAt = some x.clock.now ∧ sensorSettles y.cfg y.sensor y.clock.now = false) ∧ y.ports = s.ports ∧ y.cfg = s.cfg ∧ y.host = s.host

/-- `clearStatusFlags` whose write fails (R118, R122, R123): no suspension; fatal from `FeedEnabled`, the lifecycle
state unchanged from `Ready` and `FlagsCleared`; the RPE's error is delivered unchanged (R135). -/
def Obligations.ClearStatusFlagsFails : Prop :=
  ∀ (s : State) (ts : List Config.Agent),
    s.Inv → s.slc.lcBusy = false →
    (s.slc.lcState = .feedEnabled ∨ s.slc.lcState = .ready ∨ s.slc.lcState = .flagsCleared) →
    s.rpe.phase = .idle → s.session.outcome ≠ .ok → s.inputs.turns = .slc :: .rpe :: .rpe :: ts →
    ∃ t u w x, exec .clearStatusFlags s = .next t ∧ step t = .next u ∧ step u = .next w ∧ step w = .next x ∧
      x.slc = { lcState := if s.slc.lcState = .feedEnabled then .terminal else s.slc.lcState, lcBusy := false,
                stage := .idle } ∧
      x.rpe = { opR := .write, addrR := 0x02#7, valR := 0x00#8, phase := .idle, sessOpen := false,
                resValid := true, resCode := outcomeCode s.session.outcome, hiR := none, loR := none } ∧
      x.trace = s.trace ++
        [.accept .clearStatusFlags, .accept (.writeRegister 0x02#7 0x00#8), .bpOpen, .bpStart,
         .bpWriteByte (slaByte s.cfg 0) .ackCheck, .bpWriteByte 0x82#8 .ackCheck, .bpWriteByte 0x00#8 .ackCheck,
         .bpStop, .bpExecute 1000 (sessionResult .w s.session), .bpClose,
         .result .rpe (outcomeResult .ok s.session.outcome), .result .slc (outcomeResult .ok s.session.outcome)]

/-- An accepted `initialize`, `enableDataFeed` or `clearStatusFlags` and the frame of its acceptance: the SLC is busy, and
the engine's registers, the sensor, the ports, the time and the parameters are as before. That `initialize` is accepted
beside a transaction in flight too is the model's choice, log entry 27. -/
def Obligations.SlcAcceptanceChangesTheSlcAlone : Prop :=
  ∀ s : State, s.slc.lcBusy = false →
    (s.slc.lcState = .uninitialized →
      ∃ t, exec .initializeSensor s = .next t ∧ t.slc.lcBusy = true ∧ t.slc.lcState = s.slc.lcState ∧
        t.rpe = s.rpe ∧ t.sensor = s.sensor ∧ t.ports = s.ports ∧ t.clock = s.clock ∧ t.inputs = s.inputs ∧
        t.cfg = s.cfg ∧ t.host = s.host ∧ t.trace = s.trace ++ [.accept .initializeSensor]) ∧
    (s.slc.lcState = .busConfigured →
      ∃ t, exec .enableDataFeed s = .next t ∧ t.slc.lcBusy = true ∧ t.slc.lcState = s.slc.lcState ∧
        t.rpe = s.rpe ∧ t.sensor = s.sensor ∧ t.ports = s.ports ∧ t.clock = s.clock ∧ t.inputs = s.inputs ∧
        t.cfg = s.cfg ∧ t.host = s.host ∧ t.trace = s.trace ++ [.accept .enableDataFeed]) ∧
    ((s.slc.lcState = .feedEnabled ∨ s.slc.lcState = .ready ∨ s.slc.lcState = .flagsCleared) →
      ∃ t, exec .clearStatusFlags s = .next t ∧ t.slc.lcBusy = true ∧ t.slc.lcState = s.slc.lcState ∧
        t.rpe = s.rpe ∧ t.sensor = s.sensor ∧ t.ports = s.ports ∧ t.clock = s.clock ∧ t.inputs = s.inputs ∧
        t.cfg = s.cfg ∧ t.host = s.host ∧ t.trace = s.trace ++ [.accept .clearStatusFlags])

/-- A command in a state that does not allow it (R121) is refused by a free SLC; one presented to a busy SLC is not
refused but held (R21). That it comes behind any number of words that wait already is the model's choice, log
entry 8. -/
def Obligations.SlcRefusesWhatItsStateDoesNotAllow : Prop :=
  ∀ s : State,
    (s.slc.lcBusy = false →
      (s.slc.lcState ≠ .uninitialized → exec .initializeSensor s = .refused .lifecycleState) ∧
      (s.slc.lcState ≠ .busConfigured → exec .enableDataFeed s = .refused .lifecycleState) ∧
      ((s.slc.lcState = .uninitialized ∨ s.slc.lcState = .busConfigured ∨ s.slc.lcState = .terminal) →
        exec .clearStatusFlags s = .refused .lifecycleState)) ∧
    (s.slc.lcBusy = true →
      exec .initializeSensor s = .next (s.setPorts { s.ports with slc := s.ports.slc ++ [0#2] }) ∧
      exec .enableDataFeed s = .next (s.setPorts { s.ports with slc := s.ports.slc ++ [1#2] }) ∧
      exec .clearStatusFlags s = .next (s.setPorts { s.ports with slc := s.ports.slc ++ [2#2] }))

/-- During the post-clear delay (R119, R21) only the timing primitive, or a reset, ends the delay and frees the SLC: it
stays busy, issues nothing to the RPE, and takes no command from its port. `lc_state` stays too, but that a read which
the RPE accepts meanwhile begins a report cycle in `FlagsCleared` (R120). That several held words stay in their order
and new ones come behind them is the model's choice, log entry 8. -/
def Obligations.OnlyTheTimerEndsThePostClearDelay : Prop :=
  ∀ s s' : State, s.slc.lcBusy = true → s.slc.stage = .postClear → s.turn ≠ .postClearTimer → s.turn ≠ .reset →
    step s = .next s' →
    s'.slc.lcBusy = true ∧ s'.slc.stage = .postClear ∧
    (s'.slc.lcState = s.slc.lcState ∨ (s.slc.lcState = .flagsCleared ∧ s'.slc.lcState = .ready)) ∧
    (∃ ws, s'.ports.slc = s.ports.slc ++ ws) ∧
    (s.turn = .slc → s'.rpe = s.rpe ∧ s'.trace = s.trace)

/-! ### Whole-machine rules -/

/-- `phase` moves only along the edges of R12, in every step but a reset. -/
def Obligations.PhaseMovesAlongItsEdgesOnly : Prop :=
  ∀ s s' : State, step s = .next s' → s.turn ≠ .reset →
    s'.rpe.phase = s.rpe.phase ∨ phaseEdge s.rpe.phase s'.rpe.phase = true

/-- `lc_state` moves only along the edges of R115, in every step but a reset, from states that meet the invariant; so
no command leads to `Uninitialized` and none out of `Terminal` (R152). -/
def Obligations.LcStateMovesAlongItsEdgesOnly : Prop :=
  ∀ s s' : State, s.Inv → step s = .next s' → s.turn ≠ .reset →
    (s'.slc.lcState = s.slc.lcState ∨ lcEdge s.slc.lcState s'.slc.lcState = true) ∧
    (s.slc.lcState = .terminal → s'.slc.lcState = .terminal) ∧
    (s'.slc.lcState = .uninitialized → s.slc.lcState = .uninitialized)

/-- The invariant of the registers, of an open session's deadline (R132) and of RAP space is kept by every step, a reset
included (R15 to R17, R21, R12, and RAP space's canonical form). -/
def Obligations.StepKeepsTheInvariant : Prop :=
  ∀ s s' : State, s.Inv → step s = .next s' → s'.Inv

/-- The invariant holds after reset. -/
def Obligations.ResetMeetsTheInvariant : Prop := State.reset.Inv

/-- The bus protocol (R57, R71, R82, R83, R88, R140): from a state whose trace follows it, every step extends the
trace so that it still does: sessions are the three frames, each with one execute of the deadline, closed before any
result, at most one open; a read phase only after a pointer phase that returned `Ok`, its close, one suspension of
T_SETTLE and its end; after a failed pointer phase the error at once; the result is that of the last session. The SLC's
two configuration calls stand where no transaction is in flight: that an accepted `initialize` waits for that is the
model's choice, log entry 27. -/
def Obligations.StepKeepsTheBusProtocol : Prop :=
  ∀ s s' : State, s.Inv → s.Conforms → step s = .next s' → s'.Conforms

/-- The empty trace after reset follows the protocol. -/
def Obligations.ResetFollowsTheBusProtocol : Prop := State.reset.Conforms

/-- A step never changes the parameters of the run (R25), and time never goes back. -/
def Obligations.ParametersAreFixedAndTimeIsMonotone : Prop :=
  ∀ s s' : State, step s = .next s' → s'.cfg = s.cfg ∧ s.clock.now ≤ s'.clock.now

/-- `decode` and `isDataReady` (R96, R109) run in every state, also while a transaction is in flight or settling, and
never stop the machine: what they change is the value that the caller has and the trace, which no step of the block
reads; the engine, the SLC, the sensor, every port, the answers, the time and the parameters are as they were. And the
host, at its turn, runs them at once and waits for nothing: the host as an agent with a program, a wait and a last result
in State is the model's choice, log entry 18; the TRD's event in the trace, log entry 12. -/
def Obligations.PureUnitsRunAtAnyTime : Prop :=
  ∀ (s : State) (i : Instr), ((∃ P, i = .decode P) ∨ ∃ d, i = .isDataReady d) →
    (∃ r es, exec i s = .next { s with host := { s.host with last := some r }, trace := s.trace ++ es }) ∧
    (∀ rest, s.turn = .host → s.host.wait = .ready → s.host.program = .present i :: rest →
      ∃ t r, step s = .next t ∧ t.rpe = s.rpe ∧ t.slc = s.slc ∧ t.sensor = s.sensor ∧ t.ports = s.ports ∧
        t.inputs = s.afterTurn.inputs ∧ t.clock = s.clock ∧ t.cfg = s.cfg ∧
        t.host = { s.host with program := rest, last := some r })

/-- A host reads `hi_r` and `lo_r` exactly when a read has completed `Ok` (R16); else the read is refused. -/
def Obligations.ResultBytesAreReadOnlyAfterAnOkRead : Prop :=
  ∀ s : State, s.Inv →
    ((s.rpe.resValid = true ∧ s.rpe.resCode = .ok ∧ s.rpe.opR = .read) →
      ∃ h l, s.readHi = .ok h ∧ s.readLo = .ok l) ∧
    (¬ (s.rpe.resValid = true ∧ s.rpe.resCode = .ok ∧ s.rpe.opR = .read) →
      s.readHi = .error .noValue ∧ s.readLo = .error .noValue)

/-! ### Reset -/

/-- What reset leaves (R27, R150), the fields the spec gives a value: and no bytes in the result latches. -/
def Obligations.ResetValues : Prop :=
  State.reset.rpe.phase = .idle ∧ State.reset.busy = false ∧ State.reset.rpe.sessOpen = false ∧
  State.reset.rpe.resValid = false ∧ State.reset.readHi = .error .noValue ∧ State.reset.readLo = .error .noValue ∧
  State.reset.readResCode = .error .noValue ∧
  State.reset.slc.lcState = .uninitialized ∧ State.reset.slc.lcBusy = false

/-- The block's reset at any moment (R150, R153, R154), inside a session too: the block's registers at their reset
values; the host, what it presents, the parameters and the time as they were, and outside a transaction the platform's
configuration. What the sensor's registers and its read pointer hold afterwards is a draw, and after a reset in a
transaction the platform's configuration too: nothing is said of them. That ports, host and time are kept, and the
platform's configuration outside a transaction (R154 calls it unspecified at reset too), is the model's reading, log
entry 13; the latches' values its choice, log entry 1. -/
def Obligations.BlockResetSetsTheBlockAndKeepsHostPortsAndTime : Prop :=
  ∀ s : State, s.turn = .reset →
    ∃ s', step s = .next s' ∧ s'.rpe = State.reset.rpe ∧ s'.slc = State.reset.slc ∧
      (s.rpe.phase = .idle →
        s'.sensor.busConfigured = s.sensor.busConfigured ∧ s'.sensor.pinIsInput = s.sensor.pinIsInput) ∧
      s'.host = s.host ∧ s'.ports = s.ports ∧ s'.clock = s.clock ∧ s'.cfg = s.cfg

/-! ### The host's program -/

/-- `readPacket` (R67, R112): with a PKT_LEN of six it presents reads at PKT_BASE, PKT_BASE + 2, PKT_BASE + 4, by the
default PKT_BASE the words 0x9200, 0x9400, 0x9600; the six bytes are gathered in the order of arrival; and with every
PKT_LEN there is no packet if any of the reads failed. That a PKT_BASE whose sums pass 0x7F is ill formed is the model's
choice, log entry 30. -/
def Obligations.ReadPacketGathersSixBytes : Prop :=
  (∀ p : Config.Params, p.pktLen = 6 → Stmt.readPacket.wf p = true →
    ∃ a0 a1 a2 : RegAddr, a0.toNat = p.pktBase.toNat ∧ a1.toNat = p.pktBase.toNat + 2 ∧
      a2.toNat = p.pktBase.toNat + 4 ∧
      assemble p .readPacket
        = [.present (.readRegister a0 0#8), .present (.readRegister a1 0#8), .present (.readRegister a2 0#8)]) ∧
  (assemble defaultParams .readPacket
    = [.present (.readRegister 0x12#7 0#8), .present (.readRegister 0x14#7 0#8),
       .present (.readRegister 0x16#7 0#8)]) ∧
  encode (.readRegister 0x12#7 0#8) = .cmd16 0x9200#16 ∧ encode (.readRegister 0x14#7 0#8) = .cmd16 0x9400#16 ∧
  encode (.readRegister 0x16#7 0#8) = .cmd16 0x9600#16 ∧
  (∀ (p : Config.Params) (h0 l0 h1 l1 h2 l2 : Byte), p.pktLen = 6 →
    ∃ P, gatherPacket p [.okPair h0 l0, .okPair h1 l1, .okPair h2 l2] = some P ∧
      rawByte P 0 = h0 ∧ rawByte P 1 = l0 ∧ rawByte P 2 = h1 ∧ rawByte P 3 = l1 ∧ rawByte P 4 = h2 ∧
      rawByte P 5 = l2) ∧
  (∀ (p : Config.Params) (rs : List CmdResult) (e : ErrorKind), CmdResult.err e ∈ rs → gatherPacket p rs = none)

/-- The pseudo-instructions of the SLC's two commands (R67): the register writes 0x0401 and 0x0200, the second with
the host's own suspension of 50; and the symbolic addresses of R66, where the sum is an address (log entry 30). -/
def Obligations.PseudoInstructionsExpand : Prop :=
  slcExpansion .enableDataFeed = [.present (.writeRegister 0x04#7 0x01#8)] ∧
  slcExpansion .clearStatusFlags = [.present (.writeRegister 0x02#7 0x00#8), .suspend 50] ∧
  encode (.writeRegister 0x04#7 0x01#8) = .cmd16 0x0401#16 ∧ encode (.writeRegister 0x02#7 0x00#8) = .cmd16 0x0200#16 ∧
  (∀ (p : Config.Params) (v : Nat),
    assemble p (.writeRegister .firmverReg v) = [.present (.writeRegister 0x01#7 (BitVec.ofNat 8 v))] ∧
    assemble p (.writeRegister .statusReg v) = [.present (.writeRegister 0x02#7 (BitVec.ofNat 8 v))] ∧
    assemble p (.writeRegister .feedEnableReg v) = [.present (.writeRegister 0x04#7 (BitVec.ofNat 8 v))]) ∧
  (∀ (p : Config.Params) (n : Nat), (Stmt.readRegister (.pktBase n)).wf p = true →
    ∃ a : RegAddr, a.toNat = p.pktBase.toNat + n ∧
      assemble p (.readRegister (.pktBase n)) = [.present (.readRegister a 0x00#8)])

/-- The host at its turn with nothing to wait for does the next action of its program (R66): an RPE or SLC command's word
joins those at its own port and the host awaits the result; a `decode` returns its report at once (R109); a sample draws
the level and returns the answer at once (R95, R96); a `suspend n` is asked of the timing primitive (R160). The block,
the sensor, the other port, the time and the parameters are as before. The host as an agent with a program in State is
the model's, log entry 18; the order of several held words, log entry 8; the trace's event of a report, log entry 12. -/
def Obligations.HostDoesItsNextAction : Prop :=
  ∀ (s : State) (x : HostAction) (rest : List HostAction),
    s.turn = .host → s.host.wait = .ready → s.host.program = x :: rest →
    ∃ t, step s = .next t ∧ t.rpe = s.rpe ∧ t.slc = s.slc ∧ t.sensor = s.sensor ∧ t.clock = s.clock ∧
      t.cfg = s.cfg ∧
      (∀ i w, x = .present i → encode i = .cmd16 w →
        t.ports = { s.ports with rpe := s.ports.rpe ++ [w] } ∧ t.trace = s.trace ∧
        t.host = { s.host with program := rest, wait := .result .rpe s.trace.length }) ∧
      (∀ i w, x = .present i → encode i = .lc2 w →
        t.ports = { s.ports with slc := s.ports.slc ++ [w] } ∧ t.trace = s.trace ∧
        t.host = { s.host with program := rest, wait := .result .slc s.trace.length }) ∧
      (∀ P, x = .present (.decode P) →
        t.ports = s.ports ∧ t.trace = s.trace ++ [.result .trd (.report (decodeReport s.cfg P))] ∧
        t.host = { s.host with program := rest, last := some (.report (decodeReport s.cfg P)) }) ∧
      (x = .sample →
        t.ports = s.ports ∧ t.trace = s.trace ++ [.pinRead s.cfg.drPin s.afterTurn.level] ∧
        t.inputs = s.afterTurn.afterLevel.inputs ∧
        t.host = { s.host with
          program := rest, last := some (.level (decide (s.afterTurn.level = s.cfg.drActiveLevel))) }) ∧
      (∀ n, x = .suspend n →
        t.ports = s.ports ∧ t.trace = s.trace ++ [.tpSuspend .host n] ∧
        t.host = { s.host with program := rest, wait := .timer s.clock.now n })

/-- The host awaiting a result takes it when it is there and not before (R66): an error ends its program with that
error, any other result lets it go on; it has the result either way; and the block is as before. That it takes results
from the trace is the model's, log entry 18. -/
def Obligations.AnErrorEndsTheHostsProgram : Prop :=
  ∀ (s : State) (u : BlockUnit) (n : Nat), s.turn = .host → s.host.wait = .result u n →
    ∃ t, step s = .next t ∧ t.rpe = s.rpe ∧ t.slc = s.slc ∧ t.sensor = s.sensor ∧ t.ports = s.ports ∧
      t.clock = s.clock ∧ t.trace = s.trace ∧ t.cfg = s.cfg ∧
      ((∀ r, Event.result u r ∉ s.trace.drop n) → t.host = s.host) ∧
      (∀ es r fs, s.trace.drop n = es ++ .result u r :: fs → (∀ x, Event.result u x ∉ es) →
        (∀ e, r = .err e →
          t.host = { program := [], wait := .ready, failed := some e, last := some r }) ∧
        ((∀ e, r ≠ .err e) → t.host = { s.host with wait := .ready, last := some r }))

/-- The host's own suspension (R66, R160) is ended by the timing primitive alone, no earlier than asked for; nothing
of the block changes at its end. With no session open and no move of the block due that takes no time it ends at
every turn of the timing primitive for it; else that turn leaves the machine as it is where the end would come too late
for that (R132, the model's choice, log entry 14). The host with its pending suspension in State is the model's, log entry 18; that a
reset of the block leaves it pending, log entry 13. -/
def Obligations.HostSuspensionLastsItsMinimum : Prop :=
  ∀ (s : State) (since n : Nat), s.host.wait = .timer since n →
    (s.turn = .hostTimer →
      ∃ t, step s = .next t ∧ t.rpe = s.rpe ∧ t.slc = s.slc ∧ t.sensor = s.sensor ∧ t.ports = s.ports ∧
        (s.rpe.sessOpen = false ∧ s.urgent = false ∨ s.mayReach (s.afterTurn.hostTimerEnd since n) = true →
          t.host = { s.host with wait := .ready } ∧ since + n * s.cfg.tUnitMs ≤ t.clock.now ∧
          s.clock.now ≤ t.clock.now) ∧
        (s.mayReach (s.afterTurn.hostTimerEnd since n) = false → t = s.afterTurn)) ∧
    (s.turn ≠ .hostTimer → ∀ t, step s = .next t → t.host = s.host)

/-! ### The sensor settling after a STATUS clear -/

/-- After a write of 0x00 to STATUS that returned `Ok` the sensor settles for T_POSTCLEAR time units, and no longer if no
clear lies ahead that a reset has cut off (R153, U17); and a session that
is opened before they have passed has any effect (R164, U16): where the sensor changes nothing of its own accord, the
addressed register of a write session is as before or holds the value, as the oracle chooses, also when the outcome is
`Ok`, and the read pointer is wherever the oracle says. A session at an aliasing address is a STATUS clear too if the
oracle says so (U1); one at a framable address that is no write to STATUS and not early is none. That the time runs from
the end of the clearing session, and which other sessions may be clears, is the model's reading, log entry 29. -/
def Obligations.EarlySessionHasTheOraclesEffect : Prop :=
  ∀ (s s' : State) (k : FrameKind),
    s.turn = .rpe → s.rpe.phase.frame = some k → s.rpe.sessOpen = true → step s = .next s' →
    (k = .w ∧ s.rpe.addrR = 0x02#7 ∧ s.rpe.valR = 0x00#8 ∧ s.afterTurn.session.outcome = .ok ∨
        framable s.rpe.addrR = false ∧ s.afterTurn.session.cleared = true →
      ∀ n, (n < s'.clock.now + 50 * s.cfg.tUnitMs → sensorSettles s'.cfg s'.sensor n = true) ∧
        ((∀ c, s.sensor.clearedAt = some c → c ≤ s'.clock.now) → s'.clock.now + 50 * s.cfg.tUnitMs ≤ n →
          sensorSettles s'.cfg s'.sensor n = false)) ∧
    (framable s.rpe.addrR = true → (k = .w → s.rpe.addrR ≠ 0x02#7) →
      sensorSettles s.cfg s.sensor s.clock.sessionSince = false → s'.sensor.clearedAt = s.sensor.clearedAt) ∧
    (sensorSettles s.cfg s.sensor s.clock.sessionSince = true → s.afterTurn.session.quiet →
      s'.sensor.readPtr = s.afterTurn.session.ptr ∧
      (s.afterTurn.session.latched = false → s'.sensor.regs = s.sensor.regs) ∧
      (s.afterTurn.session.latched = true → k = .w → framable s.rpe.addrR = true →
        s'.sensor.reg s.rpe.addrR = s.rpe.valR))

/-! ### The deadline -/

/-- A session state of `phase` is left within T_DEADLINE (R132, R162, R171), whatever other parties do meanwhile: until the
session is opened no step takes time, and while it is open no step, its end included, brings the clock beyond T_DEADLINE
after its opening. That a suspension which would end later ends after the session is the model's choice, log entry 14. -/
def Obligations.SessionPhaseEndsWithinItsDeadline : Prop :=
  ∀ (s s' : State) (k : FrameKind), s.Inv → s.rpe.phase.frame = some k → step s = .next s' →
    (s.rpe.sessOpen = false → s'.clock.now = s.clock.now ∧
      (s'.rpe.sessOpen = true → s'.clock.sessionSince = s.clock.now)) ∧
    (s.rpe.sessOpen = true → s'.clock.now ≤ s.clock.sessionSince + 1000 ∧
      (s'.rpe.sessOpen = true → s'.clock.sessionSince = s.clock.sessionSince))
end

