-- ==== Sys2Proof/Laws/Memory.lean ====
section
/-! SUPPORT. RAP space: reading after writing, and that every memory operation keeps the canonical form. -/

namespace Sys2Proof.Machine

theorem Memory.read_write_same (m : Memory) (a : Nat) (v : Byte) : (Memory.write m a v).read a = some v := by
  induction m with
  | nil => simp [Memory.write, Memory.read]
  | cons c m ih =>
    unfold Memory.write
    split
    · simp [Memory.read]
    · split
      · simp [Memory.read]
      · rename_i h1 h2
        simp [Memory.read, show ¬ c.1 = a from fun h => h2 h.symm, ih]

theorem Memory.read_write_other (m : Memory) {a b : Nat} (v : Byte) (h : b ≠ a) :
    (Memory.write m a v).read b = m.read b := by
  induction m with
  | nil => simp [Memory.write, Memory.read, Ne.symm h]
  | cons c m ih =>
    unfold Memory.write
    split
    · simp [Memory.read, Ne.symm h]
    · split
      · rename_i h1 h2
        subst h2
        simp [Memory.read, Ne.symm h]
      · simp only [Memory.read]
        split
        · rfl
        · exact ih

theorem Memory.above_trans {a b : Nat} (h : a < b) {m : Memory} (hm : Memory.above b m = true) :
    Memory.above a m = true := by
  induction m with
  | nil => rfl
  | cons c m ih =>
    simp only [Memory.above, Bool.and_eq_true, decide_eq_true_eq] at hm ⊢
    exact ⟨by omega, ih hm.2⟩

theorem Memory.above_write {a b : Nat} (h : b < a) (v : Byte) {m : Memory} (hm : Memory.above b m = true) :
    Memory.above b (Memory.write m a v) = true := by
  induction m with
  | nil => simp [Memory.write, Memory.above, h]
  | cons c m ih =>
    simp only [Memory.above, Bool.and_eq_true, decide_eq_true_eq] at hm
    unfold Memory.write
    split
    · simp [Memory.above, h, hm]
    · split
      · simp [Memory.above, h, hm]
      · simp [Memory.above, hm, ih hm.2]

/-- A write to an address of RAP space keeps the canonical form. -/
theorem Memory.write_wf {a : Nat} (ha : a < 2 ^ doc.addrW) (v : Byte) {m : Memory} (hm : Memory.wf m = true) :
    Memory.wf (Memory.write m a v) = true := by
  induction m with
  | nil => simp [Memory.write, Memory.wf, Memory.above, ha]
  | cons c m ih =>
    simp only [Memory.wf, Bool.and_eq_true, decide_eq_true_eq] at hm
    unfold Memory.write
    split
    · rename_i h
      simp [Memory.wf, Memory.above, ha, h, hm, Memory.above_trans h hm.1.2]
    · split
      · rename_i h1 h2
        subst h2
        simp [Memory.wf, hm]
      · rename_i h1 h2
        simp [Memory.wf, hm, ih hm.2, Memory.above_write (show c.1 < a by omega) v hm.1.2]

/-- The sensor's own changes keep the canonical form. -/
theorem Memory.drift_wf (cs : List Host.Cell) {m : Memory} (hm : Memory.wf m = true) :
    Memory.wf (Memory.drift m cs) = true := by
  induction cs generalizing m with
  | nil => exact hm
  | cons c cs ih => exact ih (Memory.write_wf (Nat.mod_lt _ (by decide)) _ hm)

/-- A write that the sensor takes keeps the canonical form. -/
theorem takeWrite_wf (addr : RegAddr) (v : Byte) (a : Config.SessionAnswer) {m : Memory} (hm : Memory.wf m = true) :
    Memory.wf (takeWrite addr v a m) = true := by
  unfold takeWrite
  split
  · exact Memory.write_wf addr.isLt v hm
  · exact Memory.drift_wf a.later (Memory.write_wf addr.isLt v hm)

/-- A write that the sensor takes is the write alone at an address that DOC calls written (R32), and wherever the sensor
does nothing further. -/
theorem takeWrite_eq {addr : RegAddr} {a : Config.SessionAnswer} (h : docWritable addr = true ∨ a.later = [])
    (v : Byte) (m : Memory) : takeWrite addr v a m = Memory.write m addr.toNat v := by
  unfold takeWrite
  rcases h with h | h <;> simp [h, Memory.drift]

/-- The register of such a write holds the value. -/
theorem takeWrite_read {addr : RegAddr} {a : Config.SessionAnswer} (h : docWritable addr = true ∨ a.later = [])
    (v : Byte) (m : Memory) : (takeWrite addr v a m).read addr.toNat = some v := by
  rw [takeWrite_eq h, Memory.read_write_same]

/-- A session keeps the canonical form, whatever the oracle answers. -/
theorem regsAfter_wf (k : FrameKind) (addr : RegAddr) (v : Byte) (early : Bool) (a : Config.SessionAnswer)
    {m : Memory} (hm : Memory.wf m = true) : Memory.wf (regsAfter k addr v early a m) = true := by
  have hd := Memory.drift_wf a.drift hm
  cases k with
  | w =>
    simp only [regsAfter]
    split
    · exact takeWrite_wf addr v a hd
    · exact hd
  | p => exact hd
  | d => exact hd

/-- An address below every listed one reads as no value. -/
theorem Memory.read_above {a : Nat} {m : Memory} (hm : Memory.above a m = true) : m.read a = none := by
  induction m with
  | nil => rfl
  | cons c m ih =>
    simp only [Memory.above, Bool.and_eq_true, decide_eq_true_eq] at hm
    simp [Memory.read, show ¬ c.1 = a by omega, ih hm.2]

/-- A reset's draw keeps the canonical form. -/
theorem sensorAtReset_wf (b : Bool) (a : Config.ResetAnswer) {x : Sensor} (hx : x.regs.wf = true) :
    (sensorAtReset b a x).regs.wf = true := Memory.drift_wf a.drift hx

/-! ### What a register of the sensor holds -/

/-- A register that the list determines holds what the list says. -/
theorem Sensor.reg_of_read {x : Sensor} {a : RegAddr} {v : Byte} (h : x.regs.read a.toNat = some v) : x.reg a = v := by
  simp [Sensor.reg, h]

/-- Registers are told apart by the list alone. -/
theorem Sensor.reg_congr {x y : Sensor} {a : RegAddr} (h : y.regs.read a.toNat = x.regs.read a.toNat) :
    y.reg a = x.reg a := by simp [Sensor.reg, h]

/-- Every register of the reset state holds a free value. -/
theorem Sensor.reg_reset (a : RegAddr) : State.reset.sensor.reg a = Config.freeRegister a := rfl

/-- A session that changes nothing of its own accord: RAP space is as before, or as before with the value written. -/
theorem regsAfter_cases (k : FrameKind) (addr : RegAddr) (v : Byte) (early : Bool) (a : Config.SessionAnswer)
    (m : Memory) (hd : a.drift = []) (hl : a.later = []) :
    (k = .w ∧ writeTaken addr early a = true ∧ regsAfter k addr v early a m = Memory.write m addr.toNat v) ∨
    ((k = .w → writeTaken addr early a = false) ∧ regsAfter k addr v early a m = m) := by
  cases k with
  | w => cases h : writeTaken addr early a <;> simp [regsAfter, hd, Memory.drift, h, takeWrite_eq (.inr hl)]
  | p => simp [regsAfter, hd, Memory.drift]
  | d => simp [regsAfter, hd, Memory.drift]

/-- Where no clear lies ahead the last clear is the one that ends now. -/
theorem lastClear_of_past {now : Nat} {old : Option Nat} (h : ∀ c, old = some c → c ≤ now) : lastClear now old = now := by
  cases old with
  | none => rfl
  | some c => exact Nat.max_eq_left (h c rfl)

theorem le_lastClear (now : Nat) (old : Option Nat) : now ≤ lastClear now old := by
  cases old with
  | none => exact Nat.le_refl _
  | some c => exact Nat.le_max_left _ _

/-- The memory of the reset state has the canonical form. -/
theorem reset_regs_wf : State.reset.sensor.regs.wf = true := rfl

end Sys2Proof.Machine
end

