-- ==== Sys2Proof/Laws/Packet.lean ====
section
/-! SUPPORT. The widths of the word types, the bytes of a packet, and the numbers that a raw coordinate and a clipped one are. -/

namespace Sys2Proof.Machine

/-- The type of a RegisterAddress has ADDR_W bits, and the type of a byte DATA_W (R5). -/
theorem word_types_have_the_widths_of_doc : RegAddr = BitVec doc.addrW ∧ Byte = BitVec doc.dataW := ⟨rfl, rfl⟩

/-- A read phase fetches RD_BURST = 2 bytes, the first with acknowledge-continue, the second with acknowledge-stop. -/
@[simp] theorem burstReads_two : burstReads 2 = [.bpReadByte .ackContinue, .bpReadByte .ackStop] := rfl

@[simp] theorem burstReads_doc : burstReads doc.rdBurst = [.bpReadByte .ackContinue, .bpReadByte .ackStop] := rfl

/-- Byte `i` of a packet made of a list of bytes is byte `i` of the list, and 0 where the list is shorter. -/
theorem rawByte_packetOfList (bs : List Byte) (i : Nat) (h : i < 6) : rawByte (packetOfList bs) i = bs.getD i 0 := by
  induction bs generalizing i with
  | nil => simp [rawByte, packetOfList]
  | cons b bs ih =>
    cases i with
    | zero =>
      simp only [rawByte, packetOfList, List.getD_cons_zero]
      ext j hj
      simp [show j < 48 by omega, show j < 8 from hj]
    | succ n =>
      rw [List.getD_cons_succ, ← ih n (by omega)]
      simp only [rawByte, packetOfList]
      ext j hj
      have e : 8 * (n + 1) + j - 8 = 8 * n + j := by omega
      simp [show 8 * (n + 1) + j < 48 by omega, show ¬ 8 * (n + 1) + j < 8 by omega, e,
        BitVec.getLsbD_of_ge b (8 * (n + 1) + j) (by omega), BitVec.getLsbD_eq_getElem (show 8 * n + j < 48 by omega)]

/-- The bytes of a packet made of six bytes are these. -/
theorem rawByte_packetOfBytes (b0 b1 b2 b3 b4 b5 : Byte) :
    rawByte (packetOfBytes b0 b1 b2 b3 b4 b5) 0 = b0 ∧ rawByte (packetOfBytes b0 b1 b2 b3 b4 b5) 1 = b1 ∧
    rawByte (packetOfBytes b0 b1 b2 b3 b4 b5) 2 = b2 ∧ rawByte (packetOfBytes b0 b1 b2 b3 b4 b5) 3 = b3 ∧
    rawByte (packetOfBytes b0 b1 b2 b3 b4 b5) 4 = b4 ∧ rawByte (packetOfBytes b0 b1 b2 b3 b4 b5) 5 = b5 := by
  unfold packetOfBytes
  refine ⟨?_, ?_, ?_, ?_, ?_, ?_⟩ <;> rw [rawByte_packetOfList _ _ (by decide)] <;> rfl

/-- Clipping as arithmetic. -/
theorem clamp_toNat (v lo hi : Half) (h : lo.toNat ≤ hi.toNat) :
    (clamp v lo hi).toNat = max lo.toNat (min hi.toNat v.toNat) := by
  unfold clamp
  split
  · rename_i h1; rw [BitVec.lt_def] at h1; omega
  · split
    · rename_i h1 h2; rw [BitVec.lt_def] at h1 h2; omega
    · rename_i h1 h2; rw [BitVec.lt_def] at h1 h2; omega

end Sys2Proof.Machine
end

