-- ==== Sys2Proof/Laws/State.lean ====
section
/-! SUPPORT. One lemma per field of State per named update, so that no proof unfolds a record update. -/

namespace Sys2Proof.Machine

@[simp] theorem State.setRpe_rpe (s : State) (r : Rpe) : (s.setRpe r).rpe = r := rfl
@[simp] theorem State.setRpe_slc (s : State) (r : Rpe) : (s.setRpe r).slc = s.slc := rfl
@[simp] theorem State.setRpe_ports (s : State) (r : Rpe) : (s.setRpe r).ports = s.ports := rfl
@[simp] theorem State.setRpe_sensor (s : State) (r : Rpe) : (s.setRpe r).sensor = s.sensor := rfl
@[simp] theorem State.setRpe_inputs (s : State) (r : Rpe) : (s.setRpe r).inputs = s.inputs := rfl
@[simp] theorem State.setRpe_clock (s : State) (r : Rpe) : (s.setRpe r).clock = s.clock := rfl
@[simp] theorem State.setRpe_trace (s : State) (r : Rpe) : (s.setRpe r).trace = s.trace := rfl
@[simp] theorem State.setRpe_cfg (s : State) (r : Rpe) : (s.setRpe r).cfg = s.cfg := rfl
@[simp] theorem State.setRpe_host (s : State) (r : Rpe) : (s.setRpe r).host = s.host := rfl

@[simp] theorem State.setSlc_rpe (s : State) (c : Slc) : (s.setSlc c).rpe = s.rpe := rfl
@[simp] theorem State.setSlc_slc (s : State) (c : Slc) : (s.setSlc c).slc = c := rfl
@[simp] theorem State.setSlc_ports (s : State) (c : Slc) : (s.setSlc c).ports = s.ports := rfl
@[simp] theorem State.setSlc_sensor (s : State) (c : Slc) : (s.setSlc c).sensor = s.sensor := rfl
@[simp] theorem State.setSlc_inputs (s : State) (c : Slc) : (s.setSlc c).inputs = s.inputs := rfl
@[simp] theorem State.setSlc_clock (s : State) (c : Slc) : (s.setSlc c).clock = s.clock := rfl
@[simp] theorem State.setSlc_trace (s : State) (c : Slc) : (s.setSlc c).trace = s.trace := rfl
@[simp] theorem State.setSlc_cfg (s : State) (c : Slc) : (s.setSlc c).cfg = s.cfg := rfl
@[simp] theorem State.setSlc_host (s : State) (c : Slc) : (s.setSlc c).host = s.host := rfl

@[simp] theorem State.setPorts_rpe (s : State) (p : Ports) : (s.setPorts p).rpe = s.rpe := rfl
@[simp] theorem State.setPorts_slc (s : State) (p : Ports) : (s.setPorts p).slc = s.slc := rfl
@[simp] theorem State.setPorts_ports (s : State) (p : Ports) : (s.setPorts p).ports = p := rfl
@[simp] theorem State.setPorts_sensor (s : State) (p : Ports) : (s.setPorts p).sensor = s.sensor := rfl
@[simp] theorem State.setPorts_inputs (s : State) (p : Ports) : (s.setPorts p).inputs = s.inputs := rfl
@[simp] theorem State.setPorts_clock (s : State) (p : Ports) : (s.setPorts p).clock = s.clock := rfl
@[simp] theorem State.setPorts_trace (s : State) (p : Ports) : (s.setPorts p).trace = s.trace := rfl
@[simp] theorem State.setPorts_cfg (s : State) (p : Ports) : (s.setPorts p).cfg = s.cfg := rfl
@[simp] theorem State.setPorts_host (s : State) (p : Ports) : (s.setPorts p).host = s.host := rfl

@[simp] theorem State.setSensor_rpe (s : State) (x : Sensor) : (s.setSensor x).rpe = s.rpe := rfl
@[simp] theorem State.setSensor_slc (s : State) (x : Sensor) : (s.setSensor x).slc = s.slc := rfl
@[simp] theorem State.setSensor_ports (s : State) (x : Sensor) : (s.setSensor x).ports = s.ports := rfl
@[simp] theorem State.setSensor_sensor (s : State) (x : Sensor) : (s.setSensor x).sensor = x := rfl
@[simp] theorem State.setSensor_inputs (s : State) (x : Sensor) : (s.setSensor x).inputs = s.inputs := rfl
@[simp] theorem State.setSensor_clock (s : State) (x : Sensor) : (s.setSensor x).clock = s.clock := rfl
@[simp] theorem State.setSensor_trace (s : State) (x : Sensor) : (s.setSensor x).trace = s.trace := rfl
@[simp] theorem State.setSensor_cfg (s : State) (x : Sensor) : (s.setSensor x).cfg = s.cfg := rfl
@[simp] theorem State.setSensor_host (s : State) (x : Sensor) : (s.setSensor x).host = s.host := rfl

@[simp] theorem State.setInputs_rpe (s : State) (i : Inputs) : (s.setInputs i).rpe = s.rpe := rfl
@[simp] theorem State.setInputs_slc (s : State) (i : Inputs) : (s.setInputs i).slc = s.slc := rfl
@[simp] theorem State.setInputs_ports (s : State) (i : Inputs) : (s.setInputs i).ports = s.ports := rfl
@[simp] theorem State.setInputs_sensor (s : State) (i : Inputs) : (s.setInputs i).sensor = s.sensor := rfl
@[simp] theorem State.setInputs_inputs (s : State) (i : Inputs) : (s.setInputs i).inputs = i := rfl
@[simp] theorem State.setInputs_clock (s : State) (i : Inputs) : (s.setInputs i).clock = s.clock := rfl
@[simp] theorem State.setInputs_trace (s : State) (i : Inputs) : (s.setInputs i).trace = s.trace := rfl
@[simp] theorem State.setInputs_cfg (s : State) (i : Inputs) : (s.setInputs i).cfg = s.cfg := rfl
@[simp] theorem State.setInputs_host (s : State) (i : Inputs) : (s.setInputs i).host = s.host := rfl

@[simp] theorem State.setClock_rpe (s : State) (c : Clock) : (s.setClock c).rpe = s.rpe := rfl
@[simp] theorem State.setClock_slc (s : State) (c : Clock) : (s.setClock c).slc = s.slc := rfl
@[simp] theorem State.setClock_ports (s : State) (c : Clock) : (s.setClock c).ports = s.ports := rfl
@[simp] theorem State.setClock_sensor (s : State) (c : Clock) : (s.setClock c).sensor = s.sensor := rfl
@[simp] theorem State.setClock_inputs (s : State) (c : Clock) : (s.setClock c).inputs = s.inputs := rfl
@[simp] theorem State.setClock_clock (s : State) (c : Clock) : (s.setClock c).clock = c := rfl
@[simp] theorem State.setClock_trace (s : State) (c : Clock) : (s.setClock c).trace = s.trace := rfl
@[simp] theorem State.setClock_cfg (s : State) (c : Clock) : (s.setClock c).cfg = s.cfg := rfl
@[simp] theorem State.setClock_host (s : State) (c : Clock) : (s.setClock c).host = s.host := rfl

@[simp] theorem State.emit_rpe (s : State) (es : List Event) : (s.emit es).rpe = s.rpe := rfl
@[simp] theorem State.emit_slc (s : State) (es : List Event) : (s.emit es).slc = s.slc := rfl
@[simp] theorem State.emit_ports (s : State) (es : List Event) : (s.emit es).ports = s.ports := rfl
@[simp] theorem State.emit_sensor (s : State) (es : List Event) : (s.emit es).sensor = s.sensor := rfl
@[simp] theorem State.emit_inputs (s : State) (es : List Event) : (s.emit es).inputs = s.inputs := rfl
@[simp] theorem State.emit_clock (s : State) (es : List Event) : (s.emit es).clock = s.clock := rfl
@[simp] theorem State.emit_trace (s : State) (es : List Event) : (s.emit es).trace = s.trace ++ es := rfl
@[simp] theorem State.emit_cfg (s : State) (es : List Event) : (s.emit es).cfg = s.cfg := rfl
@[simp] theorem State.emit_host (s : State) (es : List Event) : (s.emit es).host = s.host := rfl

@[simp] theorem State.setHost_host (s : State) (h : HostFlow) : (s.setHost h).host = h := rfl
@[simp] theorem State.setHost_rpe (s : State) (h : HostFlow) : (s.setHost h).rpe = s.rpe := rfl
@[simp] theorem State.setHost_slc (s : State) (h : HostFlow) : (s.setHost h).slc = s.slc := rfl
@[simp] theorem State.setHost_ports (s : State) (h : HostFlow) : (s.setHost h).ports = s.ports := rfl
@[simp] theorem State.setHost_sensor (s : State) (h : HostFlow) : (s.setHost h).sensor = s.sensor := rfl
@[simp] theorem State.setHost_inputs (s : State) (h : HostFlow) : (s.setHost h).inputs = s.inputs := rfl
@[simp] theorem State.setHost_clock (s : State) (h : HostFlow) : (s.setHost h).clock = s.clock := rfl
@[simp] theorem State.setHost_trace (s : State) (h : HostFlow) : (s.setHost h).trace = s.trace := rfl
@[simp] theorem State.setHost_cfg (s : State) (h : HostFlow) : (s.setHost h).cfg = s.cfg := rfl

@[simp] theorem State.answer_host (s : State) (r : CmdResult) :
    (s.answer r).host = { s.host with last := some r } := rfl
@[simp] theorem State.answer_rpe (s : State) (r : CmdResult) : (s.answer r).rpe = s.rpe := rfl
@[simp] theorem State.answer_slc (s : State) (r : CmdResult) : (s.answer r).slc = s.slc := rfl
@[simp] theorem State.answer_ports (s : State) (r : CmdResult) : (s.answer r).ports = s.ports := rfl
@[simp] theorem State.answer_sensor (s : State) (r : CmdResult) : (s.answer r).sensor = s.sensor := rfl
@[simp] theorem State.answer_inputs (s : State) (r : CmdResult) : (s.answer r).inputs = s.inputs := rfl
@[simp] theorem State.answer_clock (s : State) (r : CmdResult) : (s.answer r).clock = s.clock := rfl
@[simp] theorem State.answer_trace (s : State) (r : CmdResult) : (s.answer r).trace = s.trace := rfl
@[simp] theorem State.answer_cfg (s : State) (r : CmdResult) : (s.answer r).cfg = s.cfg := rfl

/-! Taking an answer of the environment changes `inputs` and nothing else. -/

@[simp] theorem State.afterTurn_rpe (s : State) : s.afterTurn.rpe = s.rpe := by
  unfold State.afterTurn; split <;> rfl
@[simp] theorem State.afterTurn_slc (s : State) : s.afterTurn.slc = s.slc := by
  unfold State.afterTurn; split <;> rfl
@[simp] theorem State.afterTurn_ports (s : State) : s.afterTurn.ports = s.ports := by
  unfold State.afterTurn; split <;> rfl
@[simp] theorem State.afterTurn_sensor (s : State) : s.afterTurn.sensor = s.sensor := by
  unfold State.afterTurn; split <;> rfl
@[simp] theorem State.afterTurn_clock (s : State) : s.afterTurn.clock = s.clock := by
  unfold State.afterTurn; split <;> rfl
@[simp] theorem State.afterTurn_trace (s : State) : s.afterTurn.trace = s.trace := by
  unfold State.afterTurn; split <;> rfl
@[simp] theorem State.afterTurn_cfg (s : State) : s.afterTurn.cfg = s.cfg := by
  unfold State.afterTurn; split <;> rfl
@[simp] theorem State.afterTurn_host (s : State) : s.afterTurn.host = s.host := by
  unfold State.afterTurn; split <;> rfl

@[simp] theorem State.afterSession_rpe (s : State) : s.afterSession.rpe = s.rpe := by
  unfold State.afterSession; split <;> rfl
@[simp] theorem State.afterSession_slc (s : State) : s.afterSession.slc = s.slc := by
  unfold State.afterSession; split <;> rfl
@[simp] theorem State.afterSession_ports (s : State) : s.afterSession.ports = s.ports := by
  unfold State.afterSession; split <;> rfl
@[simp] theorem State.afterSession_sensor (s : State) : s.afterSession.sensor = s.sensor := by
  unfold State.afterSession; split <;> rfl
@[simp] theorem State.afterSession_clock (s : State) : s.afterSession.clock = s.clock := by
  unfold State.afterSession; split <;> rfl
@[simp] theorem State.afterSession_trace (s : State) : s.afterSession.trace = s.trace := by
  unfold State.afterSession; split <;> rfl
@[simp] theorem State.afterSession_cfg (s : State) : s.afterSession.cfg = s.cfg := by
  unfold State.afterSession; split <;> rfl
@[simp] theorem State.afterSession_host (s : State) : s.afterSession.host = s.host := by
  unfold State.afterSession; split <;> rfl

@[simp] theorem State.afterConfig_rpe (s : State) : s.afterConfig.rpe = s.rpe := by
  unfold State.afterConfig; split <;> rfl
@[simp] theorem State.afterConfig_slc (s : State) : s.afterConfig.slc = s.slc := by
  unfold State.afterConfig; split <;> rfl
@[simp] theorem State.afterConfig_ports (s : State) : s.afterConfig.ports = s.ports := by
  unfold State.afterConfig; split <;> rfl
@[simp] theorem State.afterConfig_sensor (s : State) : s.afterConfig.sensor = s.sensor := by
  unfold State.afterConfig; split <;> rfl
@[simp] theorem State.afterConfig_clock (s : State) : s.afterConfig.clock = s.clock := by
  unfold State.afterConfig; split <;> rfl
@[simp] theorem State.afterConfig_trace (s : State) : s.afterConfig.trace = s.trace := by
  unfold State.afterConfig; split <;> rfl
@[simp] theorem State.afterConfig_cfg (s : State) : s.afterConfig.cfg = s.cfg := by
  unfold State.afterConfig; split <;> rfl
@[simp] theorem State.afterConfig_host (s : State) : s.afterConfig.host = s.host := by
  unfold State.afterConfig; split <;> rfl

@[simp] theorem State.afterDelay_rpe (s : State) : s.afterDelay.rpe = s.rpe := by
  unfold State.afterDelay; split <;> rfl
@[simp] theorem State.afterDelay_slc (s : State) : s.afterDelay.slc = s.slc := by
  unfold State.afterDelay; split <;> rfl
@[simp] theorem State.afterDelay_ports (s : State) : s.afterDelay.ports = s.ports := by
  unfold State.afterDelay; split <;> rfl
@[simp] theorem State.afterDelay_sensor (s : State) : s.afterDelay.sensor = s.sensor := by
  unfold State.afterDelay; split <;> rfl
@[simp] theorem State.afterDelay_clock (s : State) : s.afterDelay.clock = s.clock := by
  unfold State.afterDelay; split <;> rfl
@[simp] theorem State.afterDelay_trace (s : State) : s.afterDelay.trace = s.trace := by
  unfold State.afterDelay; split <;> rfl
@[simp] theorem State.afterDelay_cfg (s : State) : s.afterDelay.cfg = s.cfg := by
  unfold State.afterDelay; split <;> rfl
@[simp] theorem State.afterDelay_host (s : State) : s.afterDelay.host = s.host := by
  unfold State.afterDelay; split <;> rfl

@[simp] theorem State.afterLevel_host (s : State) : s.afterLevel.host = s.host := by
  unfold State.afterLevel; split <;> rfl
@[simp] theorem State.afterLevel_rpe (s : State) : s.afterLevel.rpe = s.rpe := by
  unfold State.afterLevel; split <;> rfl
@[simp] theorem State.afterLevel_slc (s : State) : s.afterLevel.slc = s.slc := by
  unfold State.afterLevel; split <;> rfl
@[simp] theorem State.afterLevel_ports (s : State) : s.afterLevel.ports = s.ports := by
  unfold State.afterLevel; split <;> rfl
@[simp] theorem State.afterLevel_sensor (s : State) : s.afterLevel.sensor = s.sensor := by
  unfold State.afterLevel; split <;> rfl
@[simp] theorem State.afterLevel_clock (s : State) : s.afterLevel.clock = s.clock := by
  unfold State.afterLevel; split <;> rfl
@[simp] theorem State.afterLevel_trace (s : State) : s.afterLevel.trace = s.trace := by
  unfold State.afterLevel; split <;> rfl
@[simp] theorem State.afterLevel_cfg (s : State) : s.afterLevel.cfg = s.cfg := by
  unfold State.afterLevel; split <;> rfl

@[simp] theorem State.afterReset_rpe (s : State) : s.afterReset.rpe = s.rpe := by
  unfold State.afterReset; split <;> rfl
@[simp] theorem State.afterReset_slc (s : State) : s.afterReset.slc = s.slc := by
  unfold State.afterReset; split <;> rfl
@[simp] theorem State.afterReset_ports (s : State) : s.afterReset.ports = s.ports := by
  unfold State.afterReset; split <;> rfl
@[simp] theorem State.afterReset_sensor (s : State) : s.afterReset.sensor = s.sensor := by
  unfold State.afterReset; split <;> rfl
@[simp] theorem State.afterReset_clock (s : State) : s.afterReset.clock = s.clock := by
  unfold State.afterReset; split <;> rfl
@[simp] theorem State.afterReset_trace (s : State) : s.afterReset.trace = s.trace := by
  unfold State.afterReset; split <;> rfl
@[simp] theorem State.afterReset_cfg (s : State) : s.afterReset.cfg = s.cfg := by
  unfold State.afterReset; split <;> rfl
@[simp] theorem State.afterReset_host (s : State) : s.afterReset.host = s.host := by
  unfold State.afterReset; split <;> rfl

end Sys2Proof.Machine
end

