-- ==== Sys2Proof/Laws/Ops.lean ====
section
/-! SUPPORT. What each shared operation does to each part of State: one lemma each, so that no proof unfolds an
operation. -/

namespace Sys2Proof.Machine

@[simp] theorem lcAfterAccept_write (l : LcState) : lcAfterAccept .write l = l := by cases l <;> rfl

@[simp] theorem RpeOp.command_write (a : RegAddr) (v : Byte) : RpeOp.command .write a v = .writeRegister a v := rfl

@[simp] theorem RpeOp.command_read (a : RegAddr) (v : Byte) : RpeOp.command .read a v = .readRegister a v := rfl

@[simp] theorem holdRpe_rpe (w : Cmd16) (s : State) :
    (holdRpe w s).rpe = s.rpe := by simp [holdRpe]
@[simp] theorem holdRpe_slc (w : Cmd16) (s : State) :
    (holdRpe w s).slc = s.slc := by simp [holdRpe]
@[simp] theorem holdRpe_ports (w : Cmd16) (s : State) :
    (holdRpe w s).ports = { s.ports with rpe := s.ports.rpe ++ [w] } := by simp [holdRpe]
@[simp] theorem holdRpe_sensor (w : Cmd16) (s : State) :
    (holdRpe w s).sensor = s.sensor := by simp [holdRpe]
@[simp] theorem holdRpe_inputs (w : Cmd16) (s : State) :
    (holdRpe w s).inputs = s.inputs := by simp [holdRpe]
@[simp] theorem holdRpe_clock (w : Cmd16) (s : State) :
    (holdRpe w s).clock = s.clock := by simp [holdRpe]
@[simp] theorem holdRpe_trace (w : Cmd16) (s : State) :
    (holdRpe w s).trace = s.trace := by simp [holdRpe]
@[simp] theorem holdRpe_cfg (w : Cmd16) (s : State) :
    (holdRpe w s).cfg = s.cfg := by simp [holdRpe]
@[simp] theorem holdRpe_host (w : Cmd16) (s : State) :
    (holdRpe w s).host = s.host := by simp [holdRpe]

@[simp] theorem holdSlc_rpe (w : LcWord) (s : State) :
    (holdSlc w s).rpe = s.rpe := by simp [holdSlc]
@[simp] theorem holdSlc_slc (w : LcWord) (s : State) :
    (holdSlc w s).slc = s.slc := by simp [holdSlc]
@[simp] theorem holdSlc_ports (w : LcWord) (s : State) :
    (holdSlc w s).ports = { s.ports with slc := s.ports.slc ++ [w] } := by simp [holdSlc]
@[simp] theorem holdSlc_sensor (w : LcWord) (s : State) :
    (holdSlc w s).sensor = s.sensor := by simp [holdSlc]
@[simp] theorem holdSlc_inputs (w : LcWord) (s : State) :
    (holdSlc w s).inputs = s.inputs := by simp [holdSlc]
@[simp] theorem holdSlc_clock (w : LcWord) (s : State) :
    (holdSlc w s).clock = s.clock := by simp [holdSlc]
@[simp] theorem holdSlc_trace (w : LcWord) (s : State) :
    (holdSlc w s).trace = s.trace := by simp [holdSlc]
@[simp] theorem holdSlc_cfg (w : LcWord) (s : State) :
    (holdSlc w s).cfg = s.cfg := by simp [holdSlc]
@[simp] theorem holdSlc_host (w : LcWord) (s : State) :
    (holdSlc w s).host = s.host := by simp [holdSlc]

@[simp] theorem acceptRpe_rpe (op : RpeOp) (a : RegAddr) (v : Byte) (s : State) :
    (acceptRpe op a v s).rpe = { s.rpe with opR := op, addrR := a, valR := v, phase := op.start, resValid := false, hiR := none, loR := none } := by simp [acceptRpe]
@[simp] theorem acceptRpe_slc (op : RpeOp) (a : RegAddr) (v : Byte) (s : State) :
    (acceptRpe op a v s).slc = { s.slc with lcState := lcAfterAccept op s.slc.lcState } := by simp [acceptRpe]
@[simp] theorem acceptRpe_ports (op : RpeOp) (a : RegAddr) (v : Byte) (s : State) :
    (acceptRpe op a v s).ports = s.ports := by simp [acceptRpe]
@[simp] theorem acceptRpe_sensor (op : RpeOp) (a : RegAddr) (v : Byte) (s : State) :
    (acceptRpe op a v s).sensor = s.sensor := by simp [acceptRpe]
@[simp] theorem acceptRpe_inputs (op : RpeOp) (a : RegAddr) (v : Byte) (s : State) :
    (acceptRpe op a v s).inputs = s.inputs := by simp [acceptRpe]
@[simp] theorem acceptRpe_clock (op : RpeOp) (a : RegAddr) (v : Byte) (s : State) :
    (acceptRpe op a v s).clock = s.clock := by simp [acceptRpe]
@[simp] theorem acceptRpe_trace (op : RpeOp) (a : RegAddr) (v : Byte) (s : State) :
    (acceptRpe op a v s).trace = s.trace ++ [.accept (op.command a v)] := by simp [acceptRpe]
@[simp] theorem acceptRpe_cfg (op : RpeOp) (a : RegAddr) (v : Byte) (s : State) :
    (acceptRpe op a v s).cfg = s.cfg := by simp [acceptRpe]
@[simp] theorem acceptRpe_host (op : RpeOp) (a : RegAddr) (v : Byte) (s : State) :
    (acceptRpe op a v s).host = s.host := by simp [acceptRpe]

@[simp] theorem openSession_rpe (k : FrameKind) (s : State) :
    (openSession k s).rpe = { s.rpe with sessOpen := true } := by simp [openSession]
@[simp] theorem openSession_slc (k : FrameKind) (s : State) :
    (openSession k s).slc = s.slc := by simp [openSession]
@[simp] theorem openSession_ports (k : FrameKind) (s : State) :
    (openSession k s).ports = s.ports := by simp [openSession]
@[simp] theorem openSession_sensor (k : FrameKind) (s : State) :
    (openSession k s).sensor = s.sensor := by simp [openSession]
@[simp] theorem openSession_inputs (k : FrameKind) (s : State) :
    (openSession k s).inputs = s.inputs := by simp [openSession]
@[simp] theorem openSession_clock (k : FrameKind) (s : State) :
    (openSession k s).clock = { s.clock with sessionSince := s.clock.now } := by simp [openSession]
@[simp] theorem openSession_trace (k : FrameKind) (s : State) :
    (openSession k s).trace = s.trace ++ frameCalls s.cfg k s.rpe.addrR s.rpe.valR := by simp [openSession]
@[simp] theorem openSession_cfg (k : FrameKind) (s : State) :
    (openSession k s).cfg = s.cfg := by simp [openSession]
@[simp] theorem openSession_host (k : FrameKind) (s : State) :
    (openSession k s).host = s.host := by simp [openSession]

@[simp] theorem closeSession_rpe (k : FrameKind) (s : State) :
    (closeSession k s).rpe = { s.rpe with sessOpen := false } := by simp [closeSession]
@[simp] theorem closeSession_slc (k : FrameKind) (s : State) :
    (closeSession k s).slc = s.slc := by simp [closeSession]
@[simp] theorem closeSession_ports (k : FrameKind) (s : State) :
    (closeSession k s).ports = s.ports := by simp [closeSession]
@[simp] theorem closeSession_sensor (k : FrameKind) (s : State) :
    (closeSession k s).sensor = sensorAfter k s.rpe.addrR s.rpe.valR s.early s.sessionEnd s.session s.sensor := by simp [closeSession]
@[simp] theorem closeSession_inputs (k : FrameKind) (s : State) :
    (closeSession k s).inputs = s.afterSession.inputs := by simp [closeSession]
@[simp] theorem closeSession_clock (k : FrameKind) (s : State) :
    (closeSession k s).clock = { s.clock with now := s.sessionEnd } := by simp [closeSession]
@[simp] theorem closeSession_trace (k : FrameKind) (s : State) :
    (closeSession k s).trace = s.trace ++ [.bpExecute doc.tDeadlineMs (sessionResult k s.session), .bpClose] := by simp [closeSession]
@[simp] theorem closeSession_cfg (k : FrameKind) (s : State) :
    (closeSession k s).cfg = s.cfg := by simp [closeSession]
@[simp] theorem closeSession_host (k : FrameKind) (s : State) :
    (closeSession k s).host = s.host := by simp [closeSession]

@[simp] theorem beginSettle_rpe (s : State) :
    (beginSettle s).rpe = { s.rpe with phase := .rdSettle } := by simp [beginSettle]
@[simp] theorem beginSettle_slc (s : State) :
    (beginSettle s).slc = s.slc := by simp [beginSettle]
@[simp] theorem beginSettle_ports (s : State) :
    (beginSettle s).ports = s.ports := by simp [beginSettle]
@[simp] theorem beginSettle_sensor (s : State) :
    (beginSettle s).sensor = s.sensor := by simp [beginSettle]
@[simp] theorem beginSettle_inputs (s : State) :
    (beginSettle s).inputs = s.inputs := by simp [beginSettle]
@[simp] theorem beginSettle_clock (s : State) :
    (beginSettle s).clock = { s.clock with settleSince := s.clock.now } := by simp [beginSettle]
@[simp] theorem beginSettle_trace (s : State) :
    (beginSettle s).trace = s.trace ++ [.tpSuspend .rpe doc.tSettle] := by simp [beginSettle]
@[simp] theorem beginSettle_cfg (s : State) :
    (beginSettle s).cfg = s.cfg := by simp [beginSettle]
@[simp] theorem beginSettle_host (s : State) :
    (beginSettle s).host = s.host := by simp [beginSettle]

@[simp] theorem resumeSettle_rpe (s : State) :
    (resumeSettle s).rpe = { s.rpe with phase := .rdDataSession } := by simp [resumeSettle]
@[simp] theorem resumeSettle_slc (s : State) :
    (resumeSettle s).slc = s.slc := by simp [resumeSettle]
@[simp] theorem resumeSettle_ports (s : State) :
    (resumeSettle s).ports = s.ports := by simp [resumeSettle]
@[simp] theorem resumeSettle_sensor (s : State) :
    (resumeSettle s).sensor = s.sensor := by simp [resumeSettle]
@[simp] theorem resumeSettle_inputs (s : State) :
    (resumeSettle s).inputs = s.afterDelay.inputs := by simp [resumeSettle]
@[simp] theorem resumeSettle_clock (s : State) :
    (resumeSettle s).clock = { s.clock with now := resumeTime s.cfg s.clock.now s.clock.settleSince doc.tSettle s.delay } := by simp [resumeSettle]
@[simp] theorem resumeSettle_trace (s : State) :
    (resumeSettle s).trace = s.trace ++ [.tpResume .rpe] := by simp [resumeSettle]
@[simp] theorem resumeSettle_cfg (s : State) :
    (resumeSettle s).cfg = s.cfg := by simp [resumeSettle]
@[simp] theorem resumeSettle_host (s : State) :
    (resumeSettle s).host = s.host := by simp [resumeSettle]

@[simp] theorem resumePostClear_rpe (s : State) :
    (resumePostClear s).rpe = s.rpe := by simp [resumePostClear]
@[simp] theorem resumePostClear_slc (s : State) :
    (resumePostClear s).slc = { lcState := .flagsCleared, lcBusy := false, stage := .idle } := by simp [resumePostClear]
@[simp] theorem resumePostClear_ports (s : State) :
    (resumePostClear s).ports = s.ports := by simp [resumePostClear]
@[simp] theorem resumePostClear_sensor (s : State) :
    (resumePostClear s).sensor = s.sensor := by simp [resumePostClear]
@[simp] theorem resumePostClear_inputs (s : State) :
    (resumePostClear s).inputs = s.afterDelay.inputs := by simp [resumePostClear]
@[simp] theorem resumePostClear_clock (s : State) :
    (resumePostClear s).clock = { s.clock with now := s.postClearEnd } := by simp [resumePostClear]
@[simp] theorem resumePostClear_trace (s : State) :
    (resumePostClear s).trace = s.trace ++ [.tpResume .slc, .result .slc .ok] := by simp [resumePostClear]
@[simp] theorem resumePostClear_cfg (s : State) :
    (resumePostClear s).cfg = s.cfg := by simp [resumePostClear]
@[simp] theorem resumePostClear_host (s : State) :
    (resumePostClear s).host = s.host := by simp [resumePostClear]

@[simp] theorem blockReset_rpe (s : State) :
    (blockReset s).rpe = Rpe.reset := by simp [blockReset]
@[simp] theorem blockReset_slc (s : State) :
    (blockReset s).slc = Slc.reset := by simp [blockReset]
@[simp] theorem blockReset_ports (s : State) :
    (blockReset s).ports = s.ports := by simp [blockReset]
@[simp] theorem blockReset_sensor (s : State) :
    (blockReset s).sensor = sensorAtReset s.busy s.resetAnswer s.sensor := by simp [blockReset]
@[simp] theorem blockReset_inputs (s : State) :
    (blockReset s).inputs = s.afterReset.inputs := by simp [blockReset]
@[simp] theorem blockReset_clock (s : State) :
    (blockReset s).clock = s.clock := by simp [blockReset]
@[simp] theorem blockReset_trace (s : State) :
    (blockReset s).trace = s.trace ++ [.blockReset] := by simp [blockReset]
@[simp] theorem blockReset_cfg (s : State) :
    (blockReset s).cfg = s.cfg := by simp [blockReset]
@[simp] theorem blockReset_host (s : State) :
    (blockReset s).host = s.host := by simp [blockReset]

@[simp] theorem slcStart_rpe (op : SlcOp) (s : State) :
    (slcStart op s).rpe = s.rpe := by simp [slcStart]
@[simp] theorem slcStart_slc (op : SlcOp) (s : State) :
    (slcStart op s).slc = { s.slc with lcBusy := true, stage := .request op } := by simp [slcStart]
@[simp] theorem slcStart_ports (op : SlcOp) (s : State) :
    (slcStart op s).ports = s.ports := by simp [slcStart]
@[simp] theorem slcStart_sensor (op : SlcOp) (s : State) :
    (slcStart op s).sensor = s.sensor := by simp [slcStart]
@[simp] theorem slcStart_inputs (op : SlcOp) (s : State) :
    (slcStart op s).inputs = s.inputs := by simp [slcStart]
@[simp] theorem slcStart_clock (op : SlcOp) (s : State) :
    (slcStart op s).clock = s.clock := by simp [slcStart]
@[simp] theorem slcStart_trace (op : SlcOp) (s : State) :
    (slcStart op s).trace = s.trace ++ [.accept op.command] := by simp [slcStart]
@[simp] theorem slcStart_cfg (op : SlcOp) (s : State) :
    (slcStart op s).cfg = s.cfg := by simp [slcStart]
@[simp] theorem slcStart_host (op : SlcOp) (s : State) :
    (slcStart op s).host = s.host := by simp [slcStart]

@[simp] theorem configureStart_rpe (s : State) :
    (configureStart s).rpe = s.rpe := by simp [configureStart]
@[simp] theorem configureStart_slc (s : State) :
    (configureStart s).slc = { s.slc with lcBusy := true, stage := .configuring } := by simp [configureStart]
@[simp] theorem configureStart_ports (s : State) :
    (configureStart s).ports = s.ports := by simp [configureStart]
@[simp] theorem configureStart_sensor (s : State) :
    (configureStart s).sensor = s.sensor := by simp [configureStart]
@[simp] theorem configureStart_inputs (s : State) :
    (configureStart s).inputs = s.inputs := by simp [configureStart]
@[simp] theorem configureStart_clock (s : State) :
    (configureStart s).clock = s.clock := by simp [configureStart]
@[simp] theorem configureStart_trace (s : State) :
    (configureStart s).trace = s.trace ++ [.accept .initializeSensor] := by simp [configureStart]
@[simp] theorem configureStart_cfg (s : State) :
    (configureStart s).cfg = s.cfg := by simp [configureStart]
@[simp] theorem configureStart_host (s : State) :
    (configureStart s).host = s.host := by simp [configureStart]

@[simp] theorem slcIssue_rpe (op : SlcOp) (s : State) :
    (slcIssue op s).rpe = (acceptRpe .write (slcWrite op).1 (slcWrite op).2 s).rpe := by simp [slcIssue]
@[simp] theorem slcIssue_slc (op : SlcOp) (s : State) :
    (slcIssue op s).slc = { s.slc with stage := .await op } := by simp [slcIssue]
@[simp] theorem slcIssue_ports (op : SlcOp) (s : State) :
    (slcIssue op s).ports = s.ports := by simp [slcIssue]
@[simp] theorem slcIssue_sensor (op : SlcOp) (s : State) :
    (slcIssue op s).sensor = s.sensor := by simp [slcIssue]
@[simp] theorem slcIssue_inputs (op : SlcOp) (s : State) :
    (slcIssue op s).inputs = s.inputs := by simp [slcIssue]
@[simp] theorem slcIssue_clock (op : SlcOp) (s : State) :
    (slcIssue op s).clock = s.clock := by simp [slcIssue]
@[simp] theorem slcIssue_trace (op : SlcOp) (s : State) :
    (slcIssue op s).trace = s.trace ++ [.accept (.writeRegister (slcWrite op).1 (slcWrite op).2)] := by simp [slcIssue]
@[simp] theorem slcIssue_cfg (op : SlcOp) (s : State) :
    (slcIssue op s).cfg = s.cfg := by simp [slcIssue]
@[simp] theorem slcIssue_host (op : SlcOp) (s : State) :
    (slcIssue op s).host = s.host := by simp [slcIssue]

/-! ### Error completion (R134) -/

/-- An error of the RPE: the session is closed, the engine idle, the error in the result fields, no bytes. -/
@[simp] theorem raiseError_rpe_rpe (e : ErrorKind) (s : State) :
    (raiseError .rpe e s).rpe = { s.rpe with
      sessOpen := false, phase := .idle, resValid := true, resCode := e.resCode, hiR := none, loR := none } := by
  simp [raiseError, markError, freeUnit]

@[simp] theorem raiseError_rpe_slc (e : ErrorKind) (s : State) : (raiseError .rpe e s).slc = s.slc := by
  simp [raiseError, markError, freeUnit]

/-- An error of the SLC frees it. -/
@[simp] theorem raiseError_slc_slc (e : ErrorKind) (s : State) :
    (raiseError .slc e s).slc = { s.slc with lcBusy := false, stage := .idle } := by
  simp only [raiseError, markError, freeUnit]; split <;> simp

/-- An error of the SLC shows in the result fields when no transaction is in flight. -/
theorem raiseError_slc_rpe_idle (e : ErrorKind) (s : State) (h : s.rpe.phase = .idle) :
    (raiseError .slc e s).rpe = { s.rpe with
      resValid := true, resCode := e.resCode, hiR := none, loR := none } := by
  simp [raiseError, markError, freeUnit, h]

/-- An error of the SLC leaves a transaction in flight alone. -/
theorem raiseError_slc_rpe_busy (e : ErrorKind) (s : State) (h : s.rpe.phase ≠ .idle) :
    (raiseError .slc e s).rpe = s.rpe := by
  simp only [raiseError, markError, freeUnit]; split
  · rename_i h'; exact absurd h' h
  · simp

@[simp] theorem raiseError_ports (u : BlockUnit) (e : ErrorKind) (s : State) :
    (raiseError u e s).ports = s.ports := by
  cases u <;> simp only [raiseError, markError, freeUnit] <;> split <;> simp

@[simp] theorem raiseError_sensor (u : BlockUnit) (e : ErrorKind) (s : State) :
    (raiseError u e s).sensor = s.sensor := by
  cases u <;> simp only [raiseError, markError, freeUnit] <;> split <;> simp

@[simp] theorem raiseError_inputs (u : BlockUnit) (e : ErrorKind) (s : State) :
    (raiseError u e s).inputs = s.inputs := by
  cases u <;> simp only [raiseError, markError, freeUnit] <;> split <;> simp

@[simp] theorem raiseError_clock (u : BlockUnit) (e : ErrorKind) (s : State) :
    (raiseError u e s).clock = s.clock := by
  cases u <;> simp only [raiseError, markError, freeUnit] <;> split <;> simp

@[simp] theorem raiseError_cfg (u : BlockUnit) (e : ErrorKind) (s : State) :
    (raiseError u e s).cfg = s.cfg := by
  cases u <;> simp only [raiseError, markError, freeUnit] <;> split <;> simp

@[simp] theorem raiseError_host (u : BlockUnit) (e : ErrorKind) (s : State) :
    (raiseError u e s).host = s.host := by
  cases u <;> simp only [raiseError, markError, freeUnit] <;> split <;> simp

@[simp] theorem raiseError_trace (u : BlockUnit) (e : ErrorKind) (s : State) :
    (raiseError u e s).trace = s.trace ++ [.result u (.err e)] := by
  cases u <;> simp only [raiseError, markError, freeUnit] <;> split <;> simp

/-! ### The end of a transaction: what goes back to the caller -/

/-- Everything `returnToCaller` can do: nothing, unless the SLC awaits the result of its own write. -/
theorem returnToCaller_cases (s : State) :
    ((∀ op, s.slc.stage ≠ .await op) ∧ returnToCaller s = s) ∨
    (∃ op, s.slc.stage = .await op ∧ s.rpe.resCode.error = none ∧ returnToCaller s = slcWriteOk op s) ∨
    (∃ op e, s.slc.stage = .await op ∧ s.rpe.resCode.error = some e ∧ returnToCaller s = slcWriteFailed op e s) := by
  unfold returnToCaller
  cases hs : s.slc.stage with
  | idle => simp
  | configuring => simp
  | request op => simp
  | postClear => simp
  | await op =>
    cases he : s.rpe.resCode.error with
    | none => exact .inr (.inl ⟨op, rfl, rfl, by simp⟩)
    | some e => exact .inr (.inr ⟨op, e, rfl, rfl, by simp⟩)

theorem returnToCaller_of_not_await (s : State) (h : ∀ op, s.slc.stage ≠ .await op) : returnToCaller s = s := by
  rcases returnToCaller_cases s with ⟨_, hr⟩ | ⟨op, ho, _⟩ | ⟨op, _, ho, _⟩
  · exact hr
  · exact absurd ho (h op)
  · exact absurd ho (h op)

@[simp] theorem slcWriteOk_rpe (op : SlcOp) (s : State) : (slcWriteOk op s).rpe = s.rpe := by
  cases op <;> simp [slcWriteOk]

@[simp] theorem slcWriteOk_ports (op : SlcOp) (s : State) : (slcWriteOk op s).ports = s.ports := by
  cases op <;> simp [slcWriteOk]

@[simp] theorem slcWriteOk_sensor (op : SlcOp) (s : State) : (slcWriteOk op s).sensor = s.sensor := by
  cases op <;> simp [slcWriteOk]

@[simp] theorem slcWriteOk_inputs (op : SlcOp) (s : State) : (slcWriteOk op s).inputs = s.inputs := by
  cases op <;> simp [slcWriteOk]

@[simp] theorem slcWriteOk_cfg (op : SlcOp) (s : State) : (slcWriteOk op s).cfg = s.cfg := by
  cases op <;> simp [slcWriteOk]

@[simp] theorem slcWriteOk_host (op : SlcOp) (s : State) : (slcWriteOk op s).host = s.host := by
  cases op <;> simp [slcWriteOk]

@[simp] theorem slcWriteFailed_ports (op : SlcOp) (e : ErrorKind) (s : State) :
    (slcWriteFailed op e s).ports = s.ports := by simp [slcWriteFailed]

@[simp] theorem slcWriteFailed_sensor (op : SlcOp) (e : ErrorKind) (s : State) :
    (slcWriteFailed op e s).sensor = s.sensor := by simp [slcWriteFailed]

@[simp] theorem slcWriteFailed_inputs (op : SlcOp) (e : ErrorKind) (s : State) :
    (slcWriteFailed op e s).inputs = s.inputs := by simp [slcWriteFailed]

@[simp] theorem slcWriteFailed_clock (op : SlcOp) (e : ErrorKind) (s : State) :
    (slcWriteFailed op e s).clock = s.clock := by simp [slcWriteFailed]

@[simp] theorem slcWriteFailed_cfg (op : SlcOp) (e : ErrorKind) (s : State) :
    (slcWriteFailed op e s).cfg = s.cfg := by simp [slcWriteFailed]

@[simp] theorem slcWriteFailed_host (op : SlcOp) (e : ErrorKind) (s : State) :
    (slcWriteFailed op e s).host = s.host := by simp [slcWriteFailed]

@[simp] theorem returnToCaller_ports (s : State) : (returnToCaller s).ports = s.ports := by
  rcases returnToCaller_cases s with ⟨_, h⟩ | ⟨op, _, _, h⟩ | ⟨op, e, _, _, h⟩ <;> simp [h]

@[simp] theorem returnToCaller_sensor (s : State) : (returnToCaller s).sensor = s.sensor := by
  rcases returnToCaller_cases s with ⟨_, h⟩ | ⟨op, _, _, h⟩ | ⟨op, e, _, _, h⟩ <;> simp [h]

@[simp] theorem returnToCaller_inputs (s : State) : (returnToCaller s).inputs = s.inputs := by
  rcases returnToCaller_cases s with ⟨_, h⟩ | ⟨op, _, _, h⟩ | ⟨op, e, _, _, h⟩ <;> simp [h]

@[simp] theorem returnToCaller_cfg (s : State) : (returnToCaller s).cfg = s.cfg := by
  rcases returnToCaller_cases s with ⟨_, h⟩ | ⟨op, _, _, h⟩ | ⟨op, e, _, _, h⟩ <;> simp [h]

@[simp] theorem returnToCaller_host (s : State) : (returnToCaller s).host = s.host := by
  rcases returnToCaller_cases s with ⟨_, h⟩ | ⟨op, _, _, h⟩ | ⟨op, e, _, _, h⟩ <;> simp [h]

@[simp] theorem completeOk_ports (b : Option (Byte × Byte)) (s : State) : (completeOk b s).ports = s.ports := by simp [completeOk]

@[simp] theorem completeOk_sensor (b : Option (Byte × Byte)) (s : State) : (completeOk b s).sensor = s.sensor := by simp [completeOk]

@[simp] theorem completeOk_inputs (b : Option (Byte × Byte)) (s : State) : (completeOk b s).inputs = s.inputs := by simp [completeOk]

@[simp] theorem completeOk_cfg (b : Option (Byte × Byte)) (s : State) : (completeOk b s).cfg = s.cfg := by simp [completeOk]

@[simp] theorem completeOk_host (b : Option (Byte × Byte)) (s : State) : (completeOk b s).host = s.host := by simp [completeOk]

@[simp] theorem completeErr_ports (e : ErrorKind) (s : State) : (completeErr e s).ports = s.ports := by simp [completeErr]

@[simp] theorem completeErr_sensor (e : ErrorKind) (s : State) : (completeErr e s).sensor = s.sensor := by simp [completeErr]

@[simp] theorem completeErr_inputs (e : ErrorKind) (s : State) : (completeErr e s).inputs = s.inputs := by simp [completeErr]

@[simp] theorem completeErr_cfg (e : ErrorKind) (s : State) : (completeErr e s).cfg = s.cfg := by simp [completeErr]

@[simp] theorem completeErr_host (e : ErrorKind) (s : State) : (completeErr e s).host = s.host := by simp [completeErr]

@[simp] theorem afterClose_ports (k : FrameKind) (a : Config.SessionAnswer) (s : State) :
    (afterClose k a s).ports = s.ports := by
  unfold afterClose; split
  · cases k <;> simp
  · simp
  · simp

@[simp] theorem afterClose_sensor (k : FrameKind) (a : Config.SessionAnswer) (s : State) :
    (afterClose k a s).sensor = s.sensor := by
  unfold afterClose; split
  · cases k <;> simp
  · simp
  · simp

@[simp] theorem afterClose_inputs (k : FrameKind) (a : Config.SessionAnswer) (s : State) :
    (afterClose k a s).inputs = s.inputs := by
  unfold afterClose; split
  · cases k <;> simp
  · simp
  · simp

@[simp] theorem afterClose_cfg (k : FrameKind) (a : Config.SessionAnswer) (s : State) :
    (afterClose k a s).cfg = s.cfg := by
  unfold afterClose; split
  · cases k <;> simp
  · simp
  · simp

@[simp] theorem afterClose_host (k : FrameKind) (a : Config.SessionAnswer) (s : State) :
    (afterClose k a s).host = s.host := by
  unfold afterClose; split
  · cases k <;> simp
  · simp
  · simp

/-! ### A command completed -/

theorem ErrorKind.resCode_error (e : ErrorKind) : e.resCode.error = some e := by cases e <;> rfl

/-- The engine after a command completed `Ok`, whoever issued it. -/
@[simp] theorem completeOk_rpe (b : Option (Byte × Byte)) (s : State) :
    (completeOk b s).rpe = { s.rpe with
      phase := .idle, resValid := true, resCode := .ok, hiR := b.map (·.1), loR := b.map (·.2) } := by
  unfold completeOk
  rcases returnToCaller_cases ((s.setRpe { s.rpe with
      phase := .idle, resValid := true, resCode := .ok,
      hiR := b.map (·.1), loR := b.map (·.2) }).emit [.result .rpe (okResult b)]) with
    ⟨_, h⟩ | ⟨op, _, _, h⟩ | ⟨op, e, _, he, h⟩
  · simp [h]
  · simp [h]
  · simp [ResCode.error] at he

/-- The engine after a command completed with an error, whoever issued it (R134, R138). -/
@[simp] theorem completeErr_rpe (e : ErrorKind) (s : State) :
    (completeErr e s).rpe = { s.rpe with
      sessOpen := false, phase := .idle, resValid := true, resCode := e.resCode, hiR := none, loR := none } := by
  unfold completeErr
  rcases returnToCaller_cases (raiseError .rpe e s) with ⟨_, h⟩ | ⟨op, _, _, h⟩ | ⟨op, e', _, he, h⟩
  · simp [h]
  · simp [h]
  · rw [h]
    simp only [raiseError_rpe_rpe, ErrorKind.resCode_error, Option.some.injEq] at he
    subst he
    rw [slcWriteFailed, raiseError_slc_rpe_idle] <;> simp

/-- A command not issued by the SLC leaves it alone, and delivers one result. -/
theorem completeOk_of_not_await (b : Option (Byte × Byte)) (s : State) (h : ∀ op, s.slc.stage ≠ .await op) :
    (completeOk b s).slc = s.slc ∧ (completeOk b s).clock = s.clock ∧
      (completeOk b s).trace = s.trace ++ [.result .rpe (okResult b)] := by
  unfold completeOk
  rw [returnToCaller_of_not_await _ (by simpa using h)]
  simp

theorem completeErr_of_not_await (e : ErrorKind) (s : State) (h : ∀ op, s.slc.stage ≠ .await op) :
    (completeErr e s).slc = s.slc ∧ (completeErr e s).clock = s.clock ∧
      (completeErr e s).trace = s.trace ++ [.result .rpe (.err e)] := by
  unfold completeErr
  rw [returnToCaller_of_not_await _ (by simpa using h)]
  simp

/-- The SLC's own write completed `Ok`: what the SLC does next. -/
theorem completeOk_of_await (s : State) {op : SlcOp} (h : s.slc.stage = .await op) :
    completeOk none s = slcWriteOk op ((s.setRpe { s.rpe with
      phase := .idle, resValid := true, resCode := .ok, hiR := none, loR := none }).emit [.result .rpe .ok]) := by
  simp [completeOk, returnToCaller, h, ResCode.error, okResult]

/-- The SLC's own write failed: what the SLC does next. -/
theorem completeErr_of_await (e : ErrorKind) (s : State) {op : SlcOp} (h : s.slc.stage = .await op) :
    completeErr e s = slcWriteFailed op e (raiseError .rpe e s) := by
  simp [completeErr, returnToCaller, h, ErrorKind.resCode_error]

/-! ### What a suspension may end at -/

/-- It depends on the block's registers and the clock alone. -/
theorem State.mayReach_congr {s t : State} (h1 : t.rpe = s.rpe) (h2 : t.slc = s.slc) (h3 : t.clock = s.clock) :
    t.mayReach = s.mayReach := by
  funext n; simp [State.mayReach, State.urgent, State.busy, h1, h2, h3]

@[simp] theorem State.mayReach_afterTurn (s : State) : s.afterTurn.mayReach = s.mayReach :=
  State.mayReach_congr (by simp) (by simp) (by simp)
@[simp] theorem State.mayReach_afterLevel (s : State) : s.afterLevel.mayReach = s.mayReach :=
  State.mayReach_congr (by simp) (by simp) (by simp)
@[simp] theorem State.mayReach_setInputs (s : State) (i : Inputs) : (s.setInputs i).mayReach = s.mayReach :=
  State.mayReach_congr (by simp) (by simp) (by simp)
@[simp] theorem State.mayReach_setHost (s : State) (h : HostFlow) : (s.setHost h).mayReach = s.mayReach :=
  State.mayReach_congr (by simp) (by simp) (by simp)

/-- The end of the post-clear delay lies not before now. -/
theorem State.le_postClearEnd (s : State) : s.clock.now ≤ s.postClearEnd :=
  Nat.le_trans (Nat.le_max_left _ _) (Nat.le_add_right _ _)

/-- While a session is to be opened no suspension ends later than now. -/
theorem State.mayReach_unopened {s : State} {n : Nat} (hk : s.rpe.phase.frame.isSome = true)
    (ho : s.rpe.sessOpen = false) (h : s.mayReach n = true) : n ≤ s.clock.now := by
  simpa [State.mayReach, State.urgent, hk, ho] using h

/-- While a session is open no suspension ends after the session's deadline. -/
theorem State.mayReach_open {s : State} {n : Nat} (ho : s.rpe.sessOpen = true) (h : s.mayReach n = true) :
    n ≤ max s.clock.now (s.clock.sessionSince + doc.tDeadlineMs) := by
  simp only [State.mayReach, ho, if_true] at h
  split at h <;> simp only [decide_eq_true_eq] at h <;> omega

/-- With the engine and the SLC waiting for suspensions only, one may end at any time. -/
theorem State.mayReach_free {s : State} (n : Nat) (hu : s.urgent = false) (ho : s.rpe.sessOpen = false) :
    s.mayReach n = true := by simp [State.mayReach, hu, ho]

/-! ### Who moves -/

@[simp] theorem turn_cons (s : State) {a : Config.Agent} {as : List Config.Agent} (h : s.inputs.turns = a :: as) :
    s.turn = a := by simp [State.turn, h]

theorem afterTurn_cons (s : State) {a : Config.Agent} {as : List Config.Agent} (h : s.inputs.turns = a :: as) :
    s.afterTurn = s.setInputs { s.inputs with turns := as } := by simp [State.afterTurn, h]

/-- A step is the turn of the agent that the state names. -/
theorem step_of_turn (s : State) {a : Config.Agent} (h : s.turn = a) : step s = takeTurn a s.afterTurn := by
  rw [step, h]

end Sys2Proof.Machine
end

