-- ==== Sys2Proof/Laws/PerInstr.lean ====
section
/-! SUPPORT. Statements made once per constructor of Instr. Family `TableRow`: the word of a command fits its own row
of the opcode table and no other. -/

namespace Sys2Proof.Laws.TableRow

/-- The encoded word fits exactly one row of the opcode table, and that row's mnemonic is the command's. -/
def Statement (i : Instr) : Prop := rowsOf (encode i) = [i.mnemonic]

/-- The mask of CMD16's rows keeps bit 15 alone. -/
theorem cmd16_masked (op : BitVec 1) (a : RegAddr) (v : Byte) :
    encodeCmd16 op a v &&& 0x8000#16 = op.setWidth 16 <<< 15 := by
  have hm : ∀ i : Fin 15, (0x8000#16).getLsbD i = false := by decide
  rw [encodeCmd16]
  ext i hi
  have h15 : i < 15 ∨ i = 15 := by omega
  rcases h15 with h | h
  · have := hm ⟨i, h⟩
    simp only [BitVec.getLsbD_eq_getElem hi] at this
    simp [h, this]
  · subst h
    simp

theorem writeRegister (addr : RegAddr) (value : Byte) : Statement (.writeRegister addr value) := by
  simp [Statement, rowsOf, opcodeRows, OpcodeRow.fits, encode, PortWord.port, PortWord.bitsFit, Instr.mnemonic,
    cmd16_masked]

theorem readRegister (addr : RegAddr) (low : Byte) : Statement (.readRegister addr low) := by
  simp [Statement, rowsOf, opcodeRows, OpcodeRow.fits, encode, PortWord.port, PortWord.bitsFit, Instr.mnemonic,
    cmd16_masked]

theorem decode (raw : Packet) : Statement (.decode raw) := by
  simp [Statement, rowsOf, opcodeRows, OpcodeRow.fits, encode, PortWord.port, PortWord.bitsFit, Instr.mnemonic]

theorem isDataReady (level : Level) : Statement (.isDataReady level) := by
  simp [Statement, rowsOf, opcodeRows, OpcodeRow.fits, encode, PortWord.port, PortWord.bitsFit, Instr.mnemonic]

theorem initializeSensor : Statement .initializeSensor := by unfold Statement; decide

theorem enableDataFeed : Statement .enableDataFeed := by unfold Statement; decide

theorem clearStatusFlags : Statement .clearStatusFlags := by unfold Statement; decide

end Sys2Proof.Laws.TableRow
end

