-- ==== Sys2Proof/Laws/Step.lean ====
section
/-! SUPPORT. The inversion of a step: everything a step that answers a next state can have done. -/

namespace Sys2Proof.Machine

@[simp] theorem State.emit_nil (s : State) : s.emit [] = s := by simp [State.emit]

theorem State.busy_eq_false {s : State} : s.busy = false ↔ s.rpe.phase = .idle := by simp [State.busy]

theorem State.busy_eq_true {s : State} : s.busy = true ↔ s.rpe.phase ≠ .idle := by simp [State.busy]

/-- The events that a step of the host, or the end of its suspension, can add: a pure command's, and those of its own
suspensions. -/
def hostEvent : Event → Bool
  | .pinRead _ _ => true
  | .result u _ => decide (u = .trd)
  | .tpSuspend u _ => decide (u = .host)
  | .tpResume u => decide (u = .host)
  | _ => false

/-- All that a turn of the host, or the end of its suspension, can do: words join those that wait at the ports, events
of the host's own are added, time does not go back; the block and the sensor stay as they are. -/
structure HostEffect (s s' : State) : Prop where
  rpe : s'.rpe = s.rpe
  slc : s'.slc = s.slc
  sensor : s'.sensor = s.sensor
  cfg : s'.cfg = s.cfg
  time : s.clock.now ≤ s'.clock.now
  reach : s'.clock.now = s.clock.now ∨ s.mayReach s'.clock.now = true
  since : s'.clock.settleSince = s.clock.settleSince ∧ s'.clock.postClearSince = s.clock.postClearSince ∧
    s'.clock.sessionSince = s.clock.sessionSince
  ports : ∃ a b, s'.ports = { rpe := s.ports.rpe ++ a, slc := s.ports.slc ++ b }
  trace : ∃ es, s'.trace = s.trace ++ es ∧ ∀ e ∈ es, hostEvent e = true

/-- A change of the host and of the answers alone is a turn of the host. -/
theorem HostEffect.of_kept {s s' : State} (h1 : s'.rpe = s.rpe) (h2 : s'.slc = s.slc) (h3 : s'.sensor = s.sensor)
    (h4 : s'.cfg = s.cfg) (h5 : s'.clock = s.clock) (h6 : s'.ports = s.ports) (h7 : s'.trace = s.trace) :
    HostEffect s s' :=
  ⟨h1, h2, h3, h4, by rw [h5], by simp [h5], by rw [h5]; simp, ⟨[], [], by simp [h6]⟩, ⟨[], by simp [h7]⟩⟩

theorem HostEffect.refl (s : State) : HostEffect s s := .of_kept rfl rfl rfl rfl rfl rfl rfl

/-- What a step does to the state `s` in which the turn has been taken; one constructor per kind of move, with the
conditions under which it is made and the agent that makes it. -/
inductive StepEffect (who : Config.Agent) (s : State) : State → Prop where
  /-- the agent can do nothing -/
  | stay : who ≠ .reset → (s.rpe.phase = .rdSettle → who ≠ .settleTimer) →
      (s.slc.stage = .postClear → who = .postClearTimer → s.mayReach s.postClearEnd = false) → StepEffect who s s
  /-- an idle engine accepts a command from its port -/
  | accept (op : RpeOp) (a : RegAddr) (v : Byte) (ws : List Cmd16) : who = .rpe → s.rpe.phase = .idle →
      StepEffect who s (acceptRpe op a v (s.setPorts { s.ports with rpe := ws }))
  /-- the engine takes the next step of a session -/
  | session (k : FrameKind) : who = .rpe → s.rpe.phase.frame = some k → StepEffect who s (sessionStep k s)
  /-- the engine, idle, accepts the register write the SLC wants -/
  | slcIssue (op : SlcOp) : who = .slc → s.slc.lcBusy = true → s.slc.stage = .request op → s.rpe.phase = .idle →
      StepEffect who s (slcIssue op s)
  /-- a free SLC accepts a command that writes a register -/
  | slcStart (op : SlcOp) (ws : List LcWord) : who = .slc → s.slc.lcBusy = false →
      slcAllowed op s.slc.lcState = true →
      StepEffect who s (slcStart op (s.setPorts { s.ports with slc := ws }))
  /-- a free SLC accepts `initialize` -/
  | configureStart (ws : List LcWord) : who = .slc → s.slc.lcBusy = false → s.slc.lcState = .uninitialized →
      StepEffect who s (configureStart (s.setPorts { s.ports with slc := ws }))
  /-- the SLC, the engine idle, makes the configuration calls of `initialize` -/
  | configure : who = .slc → s.slc.lcBusy = true → s.slc.stage = .configuring → s.rpe.phase = .idle →
      StepEffect who s (configure s)
  /-- the timing primitive ends the settling delay -/
  | resumeSettle : who = .settleTimer → s.rpe.phase = .rdSettle → StepEffect who s (resumeSettle s)
  /-- the timing primitive ends the post-clear delay -/
  | resumePostClear : who = .postClearTimer → s.slc.stage = .postClear → s.mayReach s.postClearEnd = true →
      StepEffect who s (resumePostClear s)
  /-- the host makes its move, or its suspension ends -/
  | host (s' : State) : who = .host ∨ who = .hostTimer → HostEffect s s' → StepEffect who s s'
  /-- the block is reset -/
  | reset : who = .reset → StepEffect who s (blockReset s)

theorem presentRpe_next {op : RpeOp} {a : RegAddr} {v : Byte} {s s' : State} (hp : s.rpe.phase = .idle)
    (h : presentRpe op a v s = .next s') : s' = acceptRpe op a v s := by
  simp only [presentRpe, State.busy_eq_false.2 hp, Bool.false_eq_true, if_false] at h
  split at h <;> simp_all

theorem presentSlc_next {op : SlcOp} {s s' : State} (hb : s.slc.lcBusy = false)
    (h : presentSlc op s = .next s') : slcAllowed op s.slc.lcState = true ∧ s' = slcStart op s := by
  simp only [presentSlc, hb, Bool.false_eq_true, if_false] at h
  split at h <;> simp_all

theorem execInitializeSensor_next {s s' : State} (hb : s.slc.lcBusy = false)
    (h : execInitializeSensor s = .next s') : s.slc.lcState = .uninitialized ∧ s' = configureStart s := by
  simp only [execInitializeSensor, hb, Bool.false_eq_true, if_false] at h
  split at h <;> simp_all

theorem rpeTurn_effect {s s' : State} (h : rpeTurn s = .next s') : StepEffect .rpe s s' := by
  unfold rpeTurn at h
  split at h
  · rename_i hp
    split at h
    · injection h with h; subst h; exact .stay (by simp) (by simp) (by simp)
    · rename_i w ws _
      unfold decodeCmd16 at h
      dsimp only at h
      split at h
      · rw [presentRpe_next (by simpa using hp) h]; exact .accept _ _ _ ws rfl hp
      · rw [presentRpe_next (by simpa using hp) h]; exact .accept _ _ _ ws rfl hp
  · rename_i hp; injection h with h; subst h; exact .session .w rfl (by rw [hp]; rfl)
  · rename_i hp; injection h with h; subst h; exact .session .p rfl (by rw [hp]; rfl)
  · injection h with h; subst h; exact .stay (by simp) (by simp) (by simp)
  · rename_i hp; injection h with h; subst h; exact .session .d rfl (by rw [hp]; rfl)

theorem slcTurn_effect {s s' : State} (h : slcTurn s = .next s') : StepEffect .slc s s' := by
  unfold slcTurn at h
  split at h
  · rename_i hb
    split at h
    · rename_i hst
      split at h
      · injection h with h; subst h; exact .stay (by simp) (by simp) (by simp)
      · rename_i hbusy
        injection h with h; subst h
        exact .configure rfl hb hst (State.busy_eq_false.1 (by simpa using hbusy))
    · rename_i op hst
      split at h
      · injection h with h; subst h; exact .stay (by simp) (by simp) (by simp)
      · rename_i hbusy
        injection h with h; subst h
        exact .slcIssue op rfl hb hst (State.busy_eq_false.1 (by simpa using hbusy))
    all_goals (injection h with h; subst h; exact .stay (by simp) (by simp) (by simp))
  · rename_i hb
    have hb : s.slc.lcBusy = false := by simpa using hb
    split at h
    · injection h with h; subst h; exact .stay (by simp) (by simp) (by simp)
    · rename_i w ws _
      unfold decodeLc2 at h
      split at h
      · rename_i i hd
        split at hd
        · injection hd with hd; subst hd
          obtain ⟨hl, h⟩ := execInitializeSensor_next (by simpa using hb) h
          rw [h]; exact .configureStart ws rfl hb (by simpa using hl)
        · split at hd
          · injection hd with hd; subst hd
            obtain ⟨hl, h⟩ := presentSlc_next (by simpa using hb) h
            rw [h]; exact .slcStart _ ws rfl hb (by simpa using hl)
          · split at hd
            · injection hd with hd; subst hd
              obtain ⟨hl, h⟩ := presentSlc_next (by simpa using hb) h
              rw [h]; exact .slcStart _ ws rfl hb (by simpa using hl)
            · cases hd
      · cases h

/-- A pure command (R96, R109) answers a next state at once, in every state: only the caller and the trace see it. -/
theorem execDecode_effect {P : Packet} {s s' : State} (h : execDecode P s = .next s') : HostEffect s s' := by
  injection h with h; subst h
  exact ⟨rfl, rfl, rfl, rfl, Nat.le_refl _, .inl rfl, ⟨rfl, rfl, rfl⟩, ⟨[], [], by simp⟩,
    ⟨[.result .trd (.report (decodeReport s.cfg P))], by simp, by simp [hostEvent]⟩⟩

theorem execIsDataReady_effect {d : Level} {s s' : State} (h : execIsDataReady d s = .next s') : HostEffect s s' := by
  injection h with h; subst h
  exact ⟨rfl, rfl, rfl, rfl, Nat.le_refl _, .inl rfl, ⟨rfl, rfl, rfl⟩, ⟨[], [], by simp⟩,
    ⟨[.pinRead s.cfg.drPin d], by simp, by simp [hostEvent]⟩⟩

theorem hostCommand_effect {i : Instr} {s s' : State} (h : hostCommand i s = .next s') : HostEffect s s' := by
  have hr : ∀ (w : Cmd16), HostEffect s (hostAwait .rpe (holdRpe w s)) := fun w =>
    ⟨rfl, rfl, rfl, rfl, Nat.le_refl _, .inl rfl, ⟨rfl, rfl, rfl⟩, ⟨[w], [], by simp [hostAwait]⟩, ⟨[], by simp [hostAwait]⟩⟩
  have hs : ∀ (w : LcWord), HostEffect s (hostAwait .slc (holdSlc w s)) := fun w =>
    ⟨rfl, rfl, rfl, rfl, Nat.le_refl _, .inl rfl, ⟨rfl, rfl, rfl⟩, ⟨[], [w], by simp [hostAwait]⟩, ⟨[], by simp [hostAwait]⟩⟩
  cases i with
  | writeRegister a v => injection h with h; subst h; exact hr _
  | readRegister a v => injection h with h; subst h; exact hr _
  | decode P => exact execDecode_effect h
  | isDataReady d => exact execIsDataReady_effect h
  | initializeSensor => injection h with h; subst h; exact hs _
  | enableDataFeed => injection h with h; subst h; exact hs _
  | clearStatusFlags => injection h with h; subst h; exact hs _

theorem hostDo_effect {a : HostAction} {s s' : State} (h : hostDo a s = .next s') : HostEffect s s' := by
  cases a with
  | present i => exact hostCommand_effect h
  | sample =>
    obtain ⟨h1, h2, h3, h4, h5, h6, h7, h8, h9⟩ :=
      hostCommand_effect (i := .isDataReady s.level) (s := s.afterLevel) h
    constructor <;> simp_all
  | suspend n =>
    injection h with h; subst h
    exact ⟨rfl, rfl, rfl, rfl, Nat.le_refl _, .inl rfl, ⟨rfl, rfl, rfl⟩, ⟨[], [], by simp⟩,
      ⟨[.tpSuspend .host n], by simp, by simp [hostEvent]⟩⟩

theorem hostTurn_effect {s s' : State} (h : hostTurn s = .next s') : HostEffect s s' := by
  unfold hostTurn at h
  split at h
  · split at h
    · injection h with h; subst h; exact .refl s
    · obtain ⟨h1, h2, h3, h4, h5, h6, h7, h8, h9⟩ := hostDo_effect h
      exact ⟨h1, h2, h3, h4, h5, h6, h7, h8, h9⟩
  · split at h
    · injection h with h; subst h; exact .refl s
    · injection h with h; subst h; exact .of_kept rfl rfl rfl rfl rfl rfl rfl
  · injection h with h; subst h; exact .refl s

theorem hostTimerTurn_effect (s : State) : HostEffect s (hostTimerTurn s) := by
  unfold hostTimerTurn
  split
  · split
    · rename_i hr
      refine ⟨by simp, by simp, by simp, by simp, ?_, .inr (by simpa using hr), by simp, ⟨[], [], by simp⟩,
        ⟨[.tpResume .host], by simp, by simp [hostEvent]⟩⟩
      simp only [State.emit_clock, State.setClock_clock, State.hostTimerEnd, resumeTime]
      omega
    · exact .refl s
  · exact .refl s
  · exact .refl s

/-- One agent's turn, inverted. -/
theorem takeTurn_effect {a : Config.Agent} {s s' : State} (h : takeTurn a s = .next s') : StepEffect a s s' := by
  cases a with
  | host => exact .host _ (.inl rfl) (hostTurn_effect h)
  | hostTimer => injection h with h; subst h; exact .host _ (.inr rfl) (hostTimerTurn_effect s)
  | rpe => exact rpeTurn_effect h
  | slc => exact slcTurn_effect h
  | settleTimer =>
    injection h with h; subst h
    unfold settleTimerTurn
    split
    · rename_i hp; exact .resumeSettle rfl hp
    · rename_i hp; exact .stay (by simp) (fun h => absurd h hp) (by simp)
  | postClearTimer =>
    injection h with h; subst h
    unfold postClearTimerTurn
    split
    · rename_i hp
      split
      · rename_i hr; exact .resumePostClear rfl hp hr
      · rename_i hr; exact .stay (by simp) (by simp) (fun _ _ => by simpa using hr)
    · rename_i hp; exact .stay (by simp) (by simp) (fun h => absurd h hp)
  | reset => injection h with h; subst h; exact .reset rfl

/-- A step, inverted: the effect of the turn of the agent that the state names. -/
theorem step_effect {s s' : State} (h : step s = .next s') : StepEffect s.turn s.afterTurn s' := takeTurn_effect h

/-- The three things a step inside a session can do (`sessionStep`, `afterClose`): open it; execute it and complete
the command; execute it and begin the settling delay. -/
theorem sessionStep_cases (k : FrameKind) (s : State) :
    (s.rpe.sessOpen = false ∧ sessionStep k s = openSession k s) ∨
    (s.rpe.sessOpen = true ∧ s.session.outcome = .ok ∧ k = .w ∧
      sessionStep k s = completeOk none (closeSession k s)) ∨
    (s.rpe.sessOpen = true ∧ s.session.outcome = .ok ∧ k = .p ∧ sessionStep k s = beginSettle (closeSession k s)) ∨
    (s.rpe.sessOpen = true ∧ s.session.outcome = .ok ∧ k = .d ∧
      sessionStep k s = completeOk (some (s.session.b0, s.session.b1)) (closeSession k s)) ∨
    (s.rpe.sessOpen = true ∧ s.session.outcome = .noAck ∧ sessionStep k s = completeErr .noAck (closeSession k s)) ∨
    (s.rpe.sessOpen = true ∧ s.session.outcome = .timeout ∧
      sessionStep k s = completeErr .timeout (closeSession k s)) := by
  unfold sessionStep afterClose
  cases ho : s.rpe.sessOpen <;> cases ha : s.session.outcome <;> cases k <;> simp

/-! ### Parts of a step that several statements need -/

/-- What goes back to the caller takes no time. -/
@[simp] theorem returnToCaller_now (s : State) : (returnToCaller s).clock.now = s.clock.now := by
  rcases returnToCaller_cases s with ⟨_, h⟩ | ⟨op, _, _, h⟩ | ⟨op, e, _, _, h⟩ <;> rw [h]
  · cases op <;> simp [slcWriteOk]
  · simp

/-- The end of `initialize` leaves a transaction in flight alone. -/
theorem configure_rpe_busy (s : State) (hp : s.rpe.phase ≠ .idle) : (configure s).rpe = s.rpe := by
  simp only [configure, configDone]
  split
  · simp
  · rw [raiseError_slc_rpe_busy _ _ (by simpa using hp)]; simp

/-- `initialize` does not move `phase`. -/
@[simp] theorem configure_phase (s : State) : (configure s).rpe.phase = s.rpe.phase := by
  by_cases hp : s.rpe.phase = .idle
  · simp only [configure, configDone]
    split
    · simp
    · rw [raiseError_slc_rpe_idle _ _ (by simpa using hp)]; simp
  · rw [configure_rpe_busy s hp]

/-- What `initialize` leaves as it was, and where it leaves the SLC. -/
theorem configure_rest (s : State) :
    (configure s).ports = s.ports ∧ (configure s).cfg = s.cfg ∧ (configure s).clock = s.clock ∧
    (configure s).host = s.host ∧ (configure s).sensor.regs = s.sensor.regs ∧ (configure s).slc.lcBusy = false ∧
    (configure s).slc.stage = .idle ∧
    ((configure s).slc.lcState = .busConfigured ∨ (configure s).slc.lcState = .terminal) := by
  simp only [configure, configDone]
  split <;> simp [sensorConfigured]

/-- The host is moved by its own two agents alone. -/
theorem step_host_kept {s t : State} (hs : step s = .next t) (h1 : s.turn ≠ .host) (h2 : s.turn ≠ .hostTimer) :
    t.host = s.host := by
  have he := step_effect hs
  rw [← State.afterTurn_host s]
  generalize s.afterTurn = r at he ⊢
  generalize s.turn = w at he h1 h2
  cases he with
  | session k _ _ =>
    rcases sessionStep_cases k r with ⟨_, h⟩ | ⟨_, _, rfl, h⟩ | ⟨_, _, rfl, h⟩ | ⟨_, _, rfl, h⟩ | ⟨_, _, h⟩ |
      ⟨_, _, h⟩ <;> rw [h] <;> simp
  | configure _ _ _ _ => exact (configure_rest _).2.2.2.1
  | host _ hw => rcases hw with h | h <;> simp_all
  | _ => simp

end Sys2Proof.Machine
end

