-- ==== Sys2Proof/Laws/Session.lean ====
section
/-! SUPPORT. One executed session of a command that the host issued, said once: the engine's registers, the trace and
the rest of the machine afterwards, by the session's kind and outcome. -/

namespace Sys2Proof.Machine

/-- Answers depend on the inputs alone. -/
theorem State.session_congr {s t : State} (h : t.inputs.sessions = s.inputs.sessions)
    (h' : t.inputs.draws = s.inputs.draws) : t.session = s.session := by
  unfold State.session; rw [h, h']

@[simp] theorem State.session_setInputs (s : State) (i : Inputs) (h : i.sessions = s.inputs.sessions)
    (h' : i.draws = s.inputs.draws) : (s.setInputs i).session = s.session := State.session_congr h h'

@[simp] theorem acceptRpe_session (op : RpeOp) (a : RegAddr) (v : Byte) (s : State) :
    (acceptRpe op a v s).session = s.session := State.session_congr (by simp) (by simp)

@[simp] theorem openSession_session (k : FrameKind) (s : State) : (openSession k s).session = s.session :=
  State.session_congr (by simp) (by simp)

/-- Whether the session that is open came too early is settled when it is opened. -/
@[simp] theorem openSession_early (k : FrameKind) (s : State) :
    (openSession k s).early = sensorSettles s.cfg s.sensor s.clock.now := by simp [State.early]

/-- A session takes at most T_DEADLINE (R162). -/
theorem sessionMs_le (a : Config.SessionAnswer) : sessionMs a ≤ doc.tDeadlineMs := by
  unfold sessionMs; split <;> omega

/-- A session during which no time passes but its own ends when its answer says. -/
@[simp] theorem openSession_sessionEnd (k : FrameKind) (s : State) :
    (openSession k s).sessionEnd = s.clock.now + sessionMs s.session := by simp [State.sessionEnd]

/-- The end of a session lies not before now. -/
theorem State.le_sessionEnd (s : State) : s.clock.now ≤ s.sessionEnd := Nat.le_max_left _ _

/-- A session that is open within its deadline ends within it (R132, R162). -/
theorem State.sessionEnd_le (s : State) :
    s.sessionEnd ≤ max s.clock.now (s.clock.sessionSince + doc.tDeadlineMs) := by
  have := sessionMs_le s.session
  unfold State.sessionEnd; omega

@[simp] theorem State.sessionEnd_setInputs (s : State) (i : Inputs) (h : i.sessions = s.inputs.sessions)
    (h' : i.draws = s.inputs.draws) : (s.setInputs i).sessionEnd = s.sessionEnd := by
  simp [State.sessionEnd, h, h']

@[simp] theorem slcStart_session (op : SlcOp) (s : State) : (slcStart op s).session = s.session :=
  State.session_congr (by simp) (by simp)

@[simp] theorem slcIssue_session (op : SlcOp) (s : State) : (slcIssue op s).session = s.session :=
  State.session_congr (by simp) (by simp)

/-- The first step of a session opens it. -/
theorem sessionStep_open {k : FrameKind} {s : State} (h : s.rpe.sessOpen = false) :
    sessionStep k s = openSession k s := by simp [sessionStep, h]

/-- The engine's registers after an executed session, whoever issued the command. -/
theorem sessionStep_rpe {k : FrameKind} {s : State} (h : s.rpe.sessOpen = true) :
    (sessionStep k s).rpe =
      if k = .p ∧ s.session.outcome = .ok then { s.rpe with sessOpen := false, phase := .rdSettle }
      else { s.rpe with
        sessOpen := false, phase := .idle, resValid := true, resCode := outcomeCode s.session.outcome,
        hiR := if k = .d ∧ s.session.outcome = .ok then some s.session.b0 else none,
        loR := if k = .d ∧ s.session.outcome = .ok then some s.session.b1 else none } := by
  rcases sessionStep_cases k s with ⟨ho, _⟩ | ⟨_, ha, rfl, e⟩ | ⟨_, ha, rfl, e⟩ | ⟨_, ha, rfl, e⟩ | ⟨_, ha, e⟩ |
    ⟨_, ha, e⟩
  · simp [h] at ho
  all_goals rw [e]; simp [ha, outcomeCode, ErrorKind.resCode]

/-- What every executed session leaves as it was, and what it does to the sensor. -/
theorem sessionStep_rest {k : FrameKind} {s : State} (h : s.rpe.sessOpen = true) :
    (sessionStep k s).sensor =
      sensorAfter k s.rpe.addrR s.rpe.valR s.early s.sessionEnd s.session s.sensor ∧
    (sessionStep k s).inputs = s.afterSession.inputs ∧ (sessionStep k s).ports = s.ports ∧
    (sessionStep k s).cfg = s.cfg ∧ (sessionStep k s).host = s.host ∧
    (sessionStep k s).clock.now = s.sessionEnd := by
  rcases sessionStep_cases k s with ⟨ho, _⟩ | ⟨_, _, rfl, e⟩ | ⟨_, _, rfl, e⟩ | ⟨_, _, rfl, e⟩ | ⟨_, _, e⟩ |
    ⟨_, _, e⟩
  · simp [h] at ho
  all_goals rw [e]; simp [completeOk, completeErr]

/-- The events of an executed session of a command that the SLC does not await, and that the SLC stays as it is. -/
theorem sessionStep_trace {k : FrameKind} {s : State} (h : s.rpe.sessOpen = true)
    (hn : ∀ op, s.slc.stage ≠ .await op) :
    (sessionStep k s).slc = s.slc ∧
    (sessionStep k s).trace = s.trace ++
      .bpExecute doc.tDeadlineMs (sessionResult k s.session) :: .bpClose ::
        (if k = .p ∧ s.session.outcome = .ok then [.tpSuspend .rpe doc.tSettle]
         else [.result .rpe (outcomeResult
          (if k = .d then .okPair s.session.b0 s.session.b1 else .ok) s.session.outcome)]) := by
  have hn' : ∀ op, (closeSession k s).slc.stage ≠ .await op := by simpa using hn
  rcases sessionStep_cases k s with ⟨ho, _⟩ | ⟨_, ha, rfl, e⟩ | ⟨_, ha, rfl, e⟩ | ⟨_, ha, rfl, e⟩ | ⟨_, ha, e⟩ |
    ⟨_, ha, e⟩
  · simp [h] at ho
  · obtain ⟨e1, _, e3⟩ := completeOk_of_not_await none _ hn'
    rw [e, e1, e3]; simp [ha, okResult, outcomeResult]
  · rw [e]; simp [ha]
  · obtain ⟨e1, _, e3⟩ := completeOk_of_not_await (some (s.session.b0, s.session.b1)) _ hn'
    rw [e, e1, e3]; simp [ha, okResult, outcomeResult]
  · obtain ⟨e1, _, e3⟩ := completeErr_of_not_await .noAck _ hn'
    rw [e, e1, e3]; simp [ha, outcomeResult]
  · obtain ⟨e1, _, e3⟩ := completeErr_of_not_await .timeout _ hn'
    rw [e, e1, e3]; simp [ha, outcomeResult]

/-- The engine's turn inside a session is the session's next step. -/
theorem step_in_session {s : State} {k : FrameKind} {ts : List Config.Agent} (ht : s.inputs.turns = .rpe :: ts)
    (hk : s.rpe.phase.frame = some k) :
    step s = .next (sessionStep k (s.setInputs { s.inputs with turns := ts })) := by
  rw [step_of_turn s (turn_cons s ht), afterTurn_cons s ht]
  simp only [takeTurn, rpeTurn, State.setInputs_rpe]
  cases hp : s.rpe.phase <;> simp_all [Phase.frame]

/-- An idle engine has no session open. -/
theorem State.Inv.closed_in_idle {s : State} (h : s.Inv) (hp : s.rpe.phase = .idle) : s.rpe.sessOpen = false := by
  have := h.open_in_session
  rw [hp] at this
  cases ho : s.rpe.sessOpen with
  | false => rfl
  | true => exact absurd rfl (this ho)

/-- While the engine is idle the SLC awaits nothing. -/
theorem State.Inv.not_await {s : State} (h : s.Inv) (hp : s.rpe.phase = .idle) (op : SlcOp) :
    s.slc.stage ≠ .await op := by
  intro ho
  have := (h.await_own op ho).1
  rw [hp] at this
  cases this

/-- Taking the turn keeps the invariant. -/
theorem State.Inv.afterTurn {s : State} (h : s.Inv) : s.afterTurn.Inv := by
  obtain ⟨h1, h2, h3, h4, h5, h6, h7, h8, h9, h10, h11, h12, h13, h14⟩ := h
  constructor <;> simpa using by assumption

/-- The timing primitive's turn in the settling delay. -/
theorem step_settleTimer {s : State} {ts : List Config.Agent} (hp : s.rpe.phase = .rdSettle)
    (ht : s.inputs.turns = .settleTimer :: ts) :
    step s = .next (resumeSettle (s.setInputs { s.inputs with turns := ts })) := by
  rw [step_of_turn s (turn_cons s ht), afterTurn_cons s ht]
  simp [takeTurn, settleTimerTurn, hp]

/-- The SLC's turn when it wants the idle RPE. -/
theorem step_slcIssue {s : State} {op : SlcOp} {ts : List Config.Agent} (ht : s.inputs.turns = .slc :: ts)
    (hb : s.slc.lcBusy = true) (hst : s.slc.stage = .request op) (hp : s.rpe.phase = .idle) :
    step s = .next (slcIssue op (s.setInputs { s.inputs with turns := ts })) := by
  rw [step_of_turn s (turn_cons s ht), afterTurn_cons s ht]
  simp [takeTurn, slcTurn, hb, hst, State.busy, hp]

/-- A whole session from its opening to what follows its end: two turns of the engine. -/
theorem step_two_of_session {t : State} {k : FrameKind} {ts : List Config.Agent} (hk : t.rpe.phase.frame = some k)
    (ho : t.rpe.sessOpen = false) (ht : t.inputs.turns = .rpe :: .rpe :: ts) :
    ∃ u, u = openSession k (t.setInputs { t.inputs with turns := .rpe :: ts }) ∧ step t = .next u ∧
      step u = .next (sessionStep k (u.setInputs { u.inputs with turns := ts })) := by
  refine ⟨_, rfl, ?_, ?_⟩
  · rw [step_in_session ht hk, sessionStep_open (by simpa using ho)]
  · exact step_in_session (by simp) (by simpa using hk)

end Sys2Proof.Machine
end

