-- ==== Sys2Proof/Tests/Slice0.lean ====
section
/-! SUPPORT. The package's own tests: words of the spec decoded, ill-formed terms refused, single steps against the
vectors of spec/95_test_vectors.md, and for every obligation with hypotheses a witness that meets them. -/

namespace Sys2Proof.Tests

open Sys2Proof Sys2Proof.Machine

/-! ### Small states -/

/-- A parameter record with every field a literal. -/
def cfg0 : Config.Params := { defaultParams with drPin := 3, busClockHz := 400000, busPullups := true }

/-- A session's answer: outcome and bytes; taken, quick, nothing of the sensor's own accord. -/
def answer (o : Config.SessionOutcome) (b0 b1 : Byte) : Config.SessionAnswer :=
  { outcome := o, b0 := b0, b1 := b1, ms := 1, latched := true, cleared := false, drift := [], later := [], ptr := 0 }

/-- The environment's answers: the agents' turns and the sessions' answers. -/
def script (ts : List Config.Agent) (as : List Config.SessionAnswer) : Inputs :=
  { turns := ts, sessions := as, configs := [⟨.ok, .ok⟩], delays := [0, 0], levels := [1], resets := [],
    draws := 0 }

/-- An idle engine, a free SLC in `l`. -/
def at_ (l : LcState) (ts : List Config.Agent) (as : List Config.SessionAnswer) : State :=
  { State.reset with
    slc := { lcState := l, lcBusy := false, stage := .idle }
    inputs := script ts as
    cfg := cfg0 }

/-- An engine in phase `p`, its session open or not, on these operands. -/
def inPhase (p : Phase) (op : RpeOp) (o : Bool) (a : RegAddr) (v : Byte) (ts : List Config.Agent)
    (as : List Config.SessionAnswer) : State :=
  { at_ .busConfigured ts as with
    rpe := { opR := op, addrR := a, valR := v, phase := p, sessOpen := o, resValid := false, resCode := .ok,
             hiR := none, loR := none } }

/-- A field of the next state. -/
def after {α : Type} (o : Host.Outcome State Fault Refusal) (f : State → α) : Option α :=
  match o with
  | .next s => some (f s)
  | .fault _ => none
  | .refused _ => none

/-- The state of an outcome that answers one, else the default. -/
def nextOr (d : State) (o : Host.Outcome State Fault Refusal) : State :=
  match o with
  | .next s => s
  | .fault _ => d
  | .refused _ => d

/-- The refusal of an outcome. -/
def refusal (o : Host.Outcome State Fault Refusal) : Option Refusal :=
  match o with
  | .next _ => none
  | .fault _ => none
  | .refused r => some r

/-! ### Decoding: words of spec/95_test_vectors.md 3.2, spec/30_encoding.md R51, R58, R61, R62 -/

/-- `0 0000100 00000001`. -/
theorem test_decode_writeRegister : decodeWord (.cmd16 0b0000010000000001#16) = .ok (.writeRegister 0x04 0x01) := by
  decide
/-- The largest write word, 0x7FFF. -/
theorem test_decode_writeRegister_largest : decodeWord (.cmd16 0x7FFF#16) = .ok (.writeRegister 0x7F 0xFF) := by decide
/-- `1 0010010 10101011`: the low byte is ignored by the command and kept in the term. -/
theorem test_decode_readRegister : decodeWord (.cmd16 0b1001001010101011#16) = .ok (.readRegister 0x12 0xAB) := by
  decide
/-- T5's packet, `81 5A E8 BC 23 20` with byte 0 lowest. -/
theorem test_decode_decode : decodeWord (.pkt48 0x2023BCE85A81#48) = .ok (.decode 0x2023BCE85A81#48) := by decide
theorem test_decode_packet_bytes : packetOfBytes 0x81 0x5A 0xE8 0xBC 0x23 0x20 = 0x2023BCE85A81#48 := by decide
theorem test_decode_isDataReady : decodeWord (.pin1 0b1#1) = .ok (.isDataReady 1) := by decide
theorem test_decode_initialize : decodeWord (.lc2 0b00#2) = .ok .initializeSensor := by decide
theorem test_decode_enableDataFeed : decodeWord (.lc2 0b01#2) = .ok .enableDataFeed := by decide
theorem test_decode_clearStatusFlags : decodeWord (.lc2 0b10#2) = .ok .clearStatusFlags := by decide
theorem test_decode_reserved : decodeWord (.lc2 0b11#2) = .error .reservedLc2 := by decide
/-- A number with more bits than the port has is no word of it. -/
theorem test_decode_too_wide :
    decodeAt .cmd16 0x10000 = .error .tooWide ∧ decodeAt .lc2 4 = .error .tooWide ∧
    decodeAt .pin1 2 = .error .tooWide ∧ decodeAt .pkt48 (2 ^ 48) = .error .tooWide := by decide
theorem test_decodeTableWord :
    decodeTableWord 16 0x0401 = some (.writeRegister 0x04 0x01) ∧
    decodeTableWord 16 0x8000 = some (.readRegister 0x00 0x00) ∧
    decodeTableWord 48 0x0070D0000080 = some (.decode 0x0070D0000080#48) ∧
    decodeTableWord 1 1 = some (.isDataReady 1) ∧
    decodeTableWord 8 0 = some .initializeSensor ∧ decodeTableWord 8 1 = some .enableDataFeed ∧
    decodeTableWord 8 2 = some .clearStatusFlags ∧ decodeTableWord 8 3 = none := by decide

/-! ### The first step after reset runs the presented word -/

theorem test_fetch_writeRegister :
    after (step (State.reset.withFetchWord 16 0x0401)) (fun s => (s.rpe.phase, s.rpe.addrR, s.rpe.valR)) =
      some (.wrSession, 0x04, 0x01) := by decide
theorem test_fetch_readRegister :
    after (step (State.reset.withFetchWord 16 0x9200)) (fun s => (s.rpe.phase, s.rpe.addrR)) =
      some (.rdPtrSession, 0x12) := by decide
theorem test_fetch_decode :
    after (step (State.reset.withFetchWord 48 0x2023BCE85A81)) (fun s => s.host.last) =
      some (some (.report ⟨1000, 700, 32, 0x01, true⟩)) := by decide

theorem test_fetch_isDataReady :
    after (step (State.reset.withFetchWord 1 1)) (fun s => (s.trace.length, s.host.last)) =
      some (1, some (.level true)) := by decide

/-- `initialize` is accepted at once (R21: `lc_busy` is 1 from then on). -/
theorem test_fetch_initialize :
    after (step (State.reset.withFetchWord 8 0)) (fun s => (s.slc.lcBusy, s.trace)) =
      some (true, [.accept .initializeSensor]) := by decide

/-- The other two are refused in `Uninitialized` (R121), and LC2 `11` is reserved (R63). -/
theorem test_fetch_refused :
    refusal (step (State.reset.withFetchWord 8 1)) = some .lifecycleState ∧
    refusal (step (State.reset.withFetchWord 8 2)) = some .lifecycleState ∧
    refusal (step (State.reset.withFetchWord 8 3)) = some .reservedLc2 := by decide

/-! ### Well-formedness: one ill-formed term for each check -/

theorem test_wf_params : cfg0.wf = true := by decide
/-- BUTTON_MASK has bit TOUCH_BIT set (R102). -/
theorem test_wf_params_mask : ({ cfg0 with buttonMask := 0x80 } : Config.Params).wf = false := by decide
/-- A time unit of no length (R161). -/
theorem test_wf_params_unit : ({ cfg0 with tUnitMs := 0 } : Config.Params).wf = false := by decide
/-- PKT48 holds six bytes (R50, R58), and a field of the layout lies in the packet. -/
theorem test_wf_params_pktLen :
    ({ cfg0 with pktLen := 7 } : Config.Params).wf = false ∧ ({ cfg0 with pktLen := 5 } : Config.Params).wf = false ∧
    ({ cfg0 with pktLen := 5, layout := { defaultLayout with zByte := 1 } } : Config.Params).wf = true := by decide
theorem test_wf_doc : doc.wf = true := by decide
theorem test_wf_doc_widths :
    ({ doc with addrW := 8 } : Config.DocConstants).wf = false ∧
    ({ doc with dataW := 7 } : Config.DocConstants).wf = false ∧
    ({ doc with rdBurst := 3 } : Config.DocConstants).wf = false := by decide
theorem test_wf_doc_x : ({ doc with xLower := 1919 } : Config.DocConstants).wf = false := by decide
theorem test_wf_doc_y : ({ doc with yUpper := 63 } : Config.DocConstants).wf = false := by decide
theorem test_wf_write_addr : (Stmt.writeRegister (.lit 0x80) 0).wf cfg0 = false := by decide
theorem test_wf_write_value : (Stmt.writeRegister (.lit 0x7F) 0x100).wf cfg0 = false := by decide
theorem test_wf_read_addr : (Stmt.readRegister (.pktBase 0x6E)).wf cfg0 = false := by decide
theorem test_wf_decode_length : (Stmt.decode [0, 0, 0, 0, 0]).wf cfg0 = false := by decide
theorem test_wf_decode_byte : (Stmt.decode [0, 0, 0, 0, 0, 0x100]).wf cfg0 = false := by decide
theorem test_wf_readPacket : Stmt.readPacket.wf ({ cfg0 with pktBase := 0x7C } : Config.Params) = false := by decide
theorem test_wf_good :
    (Stmt.writeRegister .feedEnableReg 0xFF).wf cfg0 = true ∧ (Stmt.readRegister (.pktBase 4)).wf cfg0 = true ∧
    (Stmt.decode [0x81, 0x5A, 0xE8, 0xBC, 0x23, 0x20]).wf cfg0 = true ∧ Stmt.readPacket.wf cfg0 = true := by decide

/-! ### Single steps against the vectors -/

/-- W1's calls. -/
theorem test_writeRegister_frame :
    after (step (inPhase .wrSession .write false 0x04 0x01 [.rpe] [])) (fun s => s.trace) =
      some [.bpOpen, .bpStart, .bpWriteByte 0x54 .ackCheck, .bpWriteByte 0x84 .ackCheck,
            .bpWriteByte 0x01 .ackCheck, .bpStop] := by decide
/-- W1's end: result `Ok(())`, the sensor's register 0x04 holds 0x01. -/
theorem test_writeRegister_W1 :
    let s := inPhase .wrSession .write true 0x04 0x01 [.rpe] [answer .ok 0 0]
    after (step s) (fun s => (s.rpe.resCode, s.rpe.resValid, s.rpe.hiR)) = some (.ok, true, none) ∧
    after (step s) (fun s => s.sensor.regs) = some [(4, 0x01)] ∧
    after (step s) (fun s => s.trace) = some [.bpExecute 1000 .ok, .bpClose, .result .rpe .ok] := by decide
/-- D1's end: result `Ok((0x81, 0x5A))`. -/
theorem test_readRegister_D1 :
    after (step (inPhase .rdDataSession .read true 0x12 0 [.rpe] [answer .ok 0x81 0x5A]))
      (fun s => (s.rpe.resCode, s.rpe.hiR, s.rpe.loR)) = some (.ok, some 0x81, some 0x5A) := by decide
/-- D2: a failed pointer phase ends the command, with no suspension. -/
theorem test_readRegister_D2 :
    after (step (inPhase .rdPtrSession .read true 0x12 0 [.rpe] [answer .noAck 0 0]))
      (fun s => (s.rpe.phase, s.rpe.resCode, s.rpe.hiR, s.trace)) =
      some (.idle, .noAck, none, [.bpExecute 1000 .noAck, .bpClose, .result .rpe (.err .noAck)]) := by decide
/-- T1. -/
theorem test_decode_T1 : decodeReport cfg0 0x0070D0000080#48 = ⟨127, 1471, 0, 0x00, true⟩ := by decide
/-- T9 and T17: the upper bounds, and the nibbles not crossed. -/
theorem test_decode_T9_T17 :
    decodeReport cfg0 0x0057BE7E0000#48 = ⟨1918, 1470, 0, 0x00, false⟩ ∧
    decodeReport cfg0 0x000300E80000#48 = ⟨1000, 63, 0, 0x00, false⟩ := by decide
/-- Q1, Q2, Q4, Q5. -/
theorem test_isDataReady_Q :
    dataReady cfg0 0 = false ∧ dataReady cfg0 1 = true ∧
    dataReady { cfg0 with drActiveLevel := 0 } 0 = true ∧ dataReady { cfg0 with drActiveLevel := 0 } 1 = false := by
  decide
/-- Q2: one `PIN.read` and no other event; the answer is the caller's. -/
theorem test_isDataReady_Q2 :
    after (exec (.isDataReady 1) (at_ .ready [] [])) (fun s => (s.trace, s.host.last)) =
      some ([.pinRead 3 1], some (.level true)) := by decide

/-- The SLC in `initialize`, its configuration calls to be made. -/
def configuring (cs : List Config.ConfigAnswers) : State :=
  { at_ .uninitialized [.slc] [] with
    slc := { lcState := .uninitialized, lcBusy := true, stage := .configuring }
    inputs := { script [.slc] [] with configs := cs } }
/-- L1. -/
theorem test_initialize_L1 :
    after (step (configuring [⟨.ok, .ok⟩])) (fun s => (s.slc, s.trace)) =
      some (⟨.busConfigured, false, .idle⟩, [.bpConfigure 400000 true .ok, .pinConfigureInput 3 .ok, .result .slc .ok])
    := by decide

/-- L2, and L12. -/
theorem test_initialize_L2_L12 :
    after (step (configuring [⟨.ok, .rejected⟩])) (fun s => (s.slc.lcState, s.slc.lcBusy, s.trace.getLast?)) =
      some (.terminal, false, some (.result .slc (.err .config))) ∧
    refusal (exec .initializeSensor (at_ .feedEnabled [] [])) = some .lifecycleState := by decide

/-- The SLC's write of `enableDataFeed` under way, its session open. -/
def feedWrite (o : Config.SessionOutcome) : State :=
  { inPhase .wrSession .write true 0x04 0x01 [.rpe] [answer o 0 0] with
    slc := { lcState := .busConfigured, lcBusy := true, stage := .await .enableDataFeed } }
/-- L3 and L4. -/
theorem test_enableDataFeed_L3_L4 :
    after (step (feedWrite .ok)) (fun s => (s.slc, s.sensor.regs)) =
      some (⟨.feedEnabled, false, .idle⟩, [(4, 0x01)]) ∧
    after (step (feedWrite .noAck)) (fun s => (s.slc, s.rpe.resCode)) =
      some (⟨.terminal, false, .idle⟩, .noAck) := by decide
/-- L11. -/
theorem test_enableDataFeed_L11 :
    refusal (exec .enableDataFeed (at_ .uninitialized [] [])) = some .lifecycleState := by decide
/-- The SLC's write of `clearStatusFlags` from `l` under way, its session open. -/
def clearWrite (l : LcState) (o : Config.SessionOutcome) : State :=
  { inPhase .wrSession .write true 0x02 0x00 [.rpe] [answer o 0 0] with
    slc := { lcState := l, lcBusy := true, stage := .await .clearStatusFlags } }
/-- L5's `Z(50)`, L6 and L9. -/
theorem test_clearStatusFlags_L5_L6_L9 :
    after (step (clearWrite .feedEnabled .ok)) (fun s => (s.slc, s.trace.getLast?)) =
      some (⟨.feedEnabled, true, .postClear⟩, some (.tpSuspend .slc 50)) ∧
    after (step (clearWrite .feedEnabled .timeout)) (fun s => s.slc.lcState) = some .terminal ∧
    after (step (clearWrite .ready .noAck)) (fun s => s.slc.lcState) = some .ready := by decide
/-- L5's end: `FlagsCleared`, at least 50 ms after the suspension was asked for. -/
theorem test_clearStatusFlags_L5_end :
    after (step { at_ .feedEnabled [.postClearTimer] [] with
        slc := { lcState := .feedEnabled, lcBusy := true, stage := .postClear }
        clock := { now := 7, sessionSince := 0, settleSince := 0, postClearSince := 7 } })
      (fun s => (s.slc, s.clock.now, s.trace)) =
      some (⟨.flagsCleared, false, .idle⟩, 57, [.tpResume .slc, .result .slc .ok]) := by decide
/-- L7 and L15: the acceptance of a `readRegister`. -/
theorem test_readRegister_L7_L15 :
    after (exec (.readRegister 0x12 0) (at_ .flagsCleared [] [])) (fun s => s.slc.lcState) = some .ready ∧
    after (exec (.readRegister 0x12 0) (at_ .feedEnabled [] [])) (fun s => s.slc.lcState) = some .feedEnabled := by
  decide
/-- A host's program of one statement: its word is presented, and an error ends the program (R66). -/
theorem test_host_presents :
    after (step (({ at_ .ready [.host] [] with cfg := cfg0 } : State).withProgram [.readRegister (.pktBase 2)]))
      (fun s => (s.ports.rpe, s.host)) = some ([0x9400], ⟨[], .result .rpe 0, none, none⟩) := by decide
/-- A packet of another PKT_LEN is read by as many reads as it takes (R112). -/
theorem test_readPacket_pktLen :
    assemble { cfg0 with pktLen := 3 } .readPacket =
      [.present (.readRegister 0x12 0), .present (.readRegister 0x14 0)] ∧
    gatherPacket { cfg0 with pktLen := 3 } [.okPair 1 2, .okPair 3 4] = some 0x030201#48 := by decide
/-- A reset in a session draws the platform's configuration and the last STATUS clear too, which may lie ahead, and one
outside keeps them (R153, R154). -/
theorem test_reset_platform :
    let a : Config.ResetAnswer := ⟨[], 0x11, false, true, some 900⟩
    let x : Sensor := ⟨[], 0, true, false, none⟩
    sensorAtReset true a x = ⟨[], 0x11, false, true, some 900⟩ ∧
    sensorAtReset false a x = ⟨[], 0x11, true, false, none⟩ := by decide

/-! ### Witnesses: for every obligation with hypotheses, states and operands that meet them -/

/-- The invariant of a state whose engine is idle with no result and whose SLC is free. -/
theorem inv_idle (s : State) (h1 : s.rpe.phase = .idle) (h2 : s.rpe.sessOpen = false) (h3 : s.rpe.resValid = false)
    (h4 : s.rpe.hiR = none) (h5 : s.rpe.loR = none) (h6 : s.slc.lcBusy = false) (h7 : s.slc.stage = .idle)
    (h8 : s.sensor.regs.wf = true) : s.Inv := by
  constructor <;> simp_all [Rpe.hasBytes]

/-- The invariant of a state inside a session of a `writeRegister` that the host issued. -/
theorem inv_write (s : State) (h1 : s.rpe.phase = .wrSession) (h2 : s.rpe.opR = .write) (h3 : s.rpe.resValid = false)
    (h4 : s.rpe.hiR = none) (h5 : s.rpe.loR = none) (h6 : s.slc.lcBusy = false) (h7 : s.slc.stage = .idle)
    (h8 : s.sensor.regs.wf = true)
    (h9 : s.clock.sessionSince ≤ s.clock.now ∧ s.clock.now ≤ s.clock.sessionSince + doc.tDeadlineMs) : s.Inv := by
  constructor <;> simp_all [Rpe.hasBytes, Phase.frame]

/-- An idle machine in `l` meets the invariant. -/
theorem inv_at (l : LcState) (ts : List Config.Agent) (as : List Config.SessionAnswer) : (at_ l ts as).Inv :=
  inv_idle _ rfl rfl rfl rfl rfl rfl rfl rfl

theorem witness_DecodeOfEncodeIsIdentity : (Instr.writeRegister 0x7F 0xFF).wf = true ∧ Instr.clearStatusFlags.wf = true := by
  decide
theorem witness_EveryWordButLc2ReservedIsOneCommand :
    decodeWord (.lc2 3#2) = .error .reservedLc2 ∧ PortWord.lc2 2#2 ≠ .lc2 3#2 ∧
    encode (.readRegister 0x7F 0xFF) = .cmd16 0xFFFF#16 := by decide
theorem witness_Cmd16Fields :
    decodeWord (.cmd16 (BitVec.ofNat 16 (256 * 127 + 255))) = .ok (.writeRegister 127 255) ∧
    decodeWord (.cmd16 (BitVec.ofNat 16 (32768 + 256 * 127 + 255))) = .ok (.readRegister 127 255) ∧
    127 < 128 ∧ 255 < 256 := by decide
theorem witness_Framable : framable 0x1F = true ∧ framable 0x20 = false ∧ framable 0x40 = false := by decide
/-- Each range of R69's table at its boundaries. -/
theorem witness_PointerByteTable :
    ptrW 0x1F = 0x9F ∧ ptrR 0x1F = 0xBF ∧ ptrW 0x20 = 0xA0 ∧ ptrR 0x20 = 0xA0 ∧ ptrW 0x3F = 0xBF ∧ ptrR 0x3F = 0xBF ∧
    ptrW 0x40 = 0xC0 ∧ ptrR 0x40 = 0xE0 ∧ ptrW 0x5F = 0xDF ∧ ptrR 0x5F = 0xFF ∧ ptrW 0x60 = 0xE0 ∧
    ptrR 0x60 = 0xE0 ∧ ptrW 0x7F = 0xFF ∧ ptrR 0x7F = 0xFF := by decide

/-- A state with one word at each port, the host with the actions `hs`, and the turn of agent `a`. -/
def presented (a : Config.Agent) (lc : LcWord) (hs : List HostAction) : State :=
  { at_ .uninitialized [a] [] with ports := { rpe := [0x0401], slc := [lc] }, host := ⟨hs, .ready, none, none⟩ }

theorem witness_StepRunsTheWordAtThePort :
    ((presented .rpe 0 []).turn = .rpe ∧ (presented .rpe 0 []).rpe.phase = .idle ∧
      decodeWord (.cmd16 0x0401) = .ok (.writeRegister 4 1) ∧ (presented .rpe 0 []).ports.rpe = [0x0401]) ∧
    ((presented .slc 0 []).turn = .slc ∧ (presented .slc 0 []).slc.lcBusy = false ∧
      decodeWord (.lc2 0) = .ok .initializeSensor ∧ (presented .slc 0 []).ports.slc = [0]) ∧
    ((presented .host 0 [.present (.decode 0x80)]).turn = .host ∧
      (presented .host 0 [.present (.decode 0x80)]).host.wait = .ready ∧
      decodeWord (.pkt48 0x80) = .ok (.decode 0x80)) ∧
    ((presented .host 0 [.sample]).turn = .host ∧ (presented .host 0 [.sample]).host.wait = .ready ∧
      decodeWord (.pin1 (presented .host 0 [.sample]).afterTurn.level) = .ok (.isDataReady 1)) ∧
    ((presented .slc 3 []).turn = .slc ∧ (presented .slc 3 []).slc.lcBusy = false ∧
      decodeWord (.lc2 3) = .error .reservedLc2) := by decide

/-- STRICT_ADDR false with an aliasing address, and true with the last framable one. -/
theorem witness_AcceptanceLatches :
    (at_ .flagsCleared [] []).rpe.phase = .idle ∧ (at_ .flagsCleared [] []).cfg.strictAddr = false ∧
    framable 0x1F = true := by decide

theorem witness_BusyEngineHoldsCommands :
    (inPhase .rdSettle .read false 0x12 0 [.rpe] []).rpe.phase ≠ .idle ∧
    after (step (inPhase .rdSettle .read false 0x12 0 [.rpe] [])) (fun s => s.ports.rpe) = some [] := by decide

theorem witness_StrictAddr :
    let s : State := { at_ .ready [] [] with cfg := { cfg0 with strictAddr := true } }
    s.rpe.phase = .idle ∧ s.cfg.strictAddr = true ∧ 0x20 ≤ (0x20#7).toNat ∧ (0x1F#7).toNat ≤ 0x1F ∧
    refusal (exec (.readRegister 0x20 0) s) = some .aliasingAddress ∧
    after (exec (.readRegister 0x1F 0) s) (fun t => t.rpe.phase) = some .rdPtrSession ∧
    (at_ .ready [] []).cfg.strictAddr = false := by decide

theorem witness_WriteRegisterCompletes :
    let s := at_ .ready [.rpe, .rpe] [answer .ok 0 0]
    s.Inv ∧ s.rpe.phase = .idle ∧ s.cfg.strictAddr = false ∧ s.inputs.turns = [.rpe, .rpe] :=
  ⟨inv_at _ _ _, rfl, rfl, rfl⟩
theorem witness_ReadRegisterPointerPhase :
    let s := at_ .ready [.rpe, .rpe] [answer .noAck 0 0]
    s.Inv ∧ s.rpe.phase = .idle ∧ framable 0x1F = true ∧ s.inputs.turns = [.rpe, .rpe] :=
  ⟨inv_at _ _ _, rfl, rfl, rfl⟩
theorem witness_ReadRegisterCompletes :
    let s := at_ .flagsCleared [.rpe, .rpe, .settleTimer, .rpe, .rpe] [answer .ok 0 0, answer .ok 0x81 0x5A]
    s.Inv ∧ s.rpe.phase = .idle ∧ s.cfg.strictAddr = false ∧ s.session.outcome = .ok ∧
      s.inputs.turns = [.rpe, .rpe, .settleTimer, .rpe, .rpe] :=
  ⟨inv_at _ _ _, rfl, rfl, rfl, rfl⟩
theorem witness_OnlyTheTimerEndsTheSettlingDelay :
    let s := inPhase .rdSettle .read false 0x12 0 [.rpe] []
    s.rpe.phase = .rdSettle ∧ s.turn ≠ .settleTimer ∧ s.turn ≠ .reset ∧
      after (step s) (fun t => t.rpe.phase) = some .rdSettle := by decide
theorem witness_SettlingDelayLastsItsMinimum :
    let s := inPhase .rdSettle .read false 0x12 0 [.settleTimer] []
    s.rpe.phase = .rdSettle ∧ s.turn = .settleTimer ∧
      after (step s) (fun t => (t.rpe.phase, t.clock.now)) = some (.rdDataSession, 30) := by decide
theorem witness_FailedSessionCompletesWithItsError :
    let s := inPhase .rdDataSession .read true 0x12 0 [.rpe] [answer .timeout 0 0]
    s.turn = .rpe ∧ s.rpe.phase.frame = some .d ∧ s.rpe.sessOpen = true ∧ s.afterTurn.session.outcome ≠ .ok ∧
      after (step s) (fun t => t.clock.now) = some 1000 := by decide
/-- The sure clause at 0x04, which no `later` change touches, and at the boundary 0x1F, which one does; FIRMVER, the frame
and the pointer clause. -/
theorem witness_SessionsWriteOnlyTheAddressedRegister :
    let w := inPhase .wrSession .write true 0x04 0xA5 [.rpe] [{ answer .ok 0 0 with latched := false }]
    let n := inPhase .wrSession .write true 0x1F 0xA5 [.rpe] [{ answer .ok 0 0 with latched := false }]
    let l (a : RegAddr) := inPhase .wrSession .write true a 0xA5 [.rpe] [{ answer .ok 0 0 with later := [(31, 0x11)] }]
    let f := inPhase .wrSession .write true 0x01 0xA5 [.rpe] [{ answer .ok 0 0 with latched := false }]
    let p := inPhase .rdPtrSession .read true 0x1F 0 [.rpe] [answer .ok 0 0]
    (w.turn = .rpe ∧ w.rpe.phase.frame = some .w ∧ w.rpe.sessOpen = true ∧ w.afterTurn.session.outcome = .ok ∧
      sensorSettles w.cfg w.sensor w.clock.sessionSince = false ∧ w.afterTurn.session.quiet ∧
      after (step w) (fun t => t.sensor.reg 0x04) = some 0xA5) ∧
    (n.rpe.phase.frame = some .w ∧ n.afterTurn.session.outcome = .ok ∧ framable n.rpe.addrR = true ∧
      n.afterTurn.session.quiet ∧ after (step n) (fun t => t.sensor.regs) = some [(31, 0xA5)]) ∧
    (after (step (l 0x04)) (fun t => t.sensor.regs) = some [(4, 0xA5)] ∧
      after (step (l 0x1F)) (fun t => t.sensor.regs) = some [(31, 0x11)]) ∧
    (f.rpe.phase.frame = some .w ∧ after (step f) (fun t => t.sensor.regs) = some []) ∧
    (p.rpe.phase.frame = some .p ∧ p.afterTurn.session.outcome = .ok ∧
      after (step p) (fun t => t.sensor.readPtr) = some 0x1F) := by decide
/-- A session too early after a STATUS clear: not taken although `Ok`, and taken; the clear itself; a session at the
boundary 0x20 that is one for the sensor; and at 0x1F, which is none; and a clear while another, cut off by a reset, lies
ahead. -/
theorem witness_EarlySessionHasTheOraclesEffect :
    let e : Config.SessionAnswer := { answer .ok 0 0 with latched := false, ptr := 0x15 }
    let s : State := { inPhase .wrSession .write true 0x04 0x01 [.rpe] [e] with
      sensor := ⟨[], 0, true, true, some 10⟩
      clock := { now := 59, sessionSince := 59, settleSince := 0, postClearSince := 0 } }
    let l : State := { s with inputs := script [.rpe] [answer .ok 0 0] }
    let c := inPhase .wrSession .write true 0x02 0x00 [.rpe] [answer .ok 0 0]
    let d : State := { c with sensor := ⟨[], 0, true, true, some 900⟩ }
    let x (a : RegAddr) := inPhase .wrSession .write true a 0x00 [.rpe] [{ answer .ok 0 0 with cleared := true }]
    (s.turn = .rpe ∧ s.rpe.phase.frame = some .w ∧ s.rpe.sessOpen = true ∧
      sensorSettles s.cfg s.sensor s.clock.sessionSince = true ∧ sensorSettles s.cfg s.sensor 60 = false ∧
      after (step s) (fun t => (t.sensor.regs, t.sensor.readPtr)) = some ([], 0x15)) ∧
    (l.afterTurn.session.latched = true ∧ after (step l) (fun t => t.sensor.reg 0x04) = some 0x01) ∧
    (c.turn = .rpe ∧ c.afterTurn.session.outcome = .ok ∧
      after (step c) (fun t => (t.sensor.clearedAt, t.clock.now)) = some (some 1, 1)) ∧
    (after (step d) (fun t => sensorSettles t.cfg t.sensor 50) = some true ∧
      after (step d) (fun t => t.sensor.clearedAt) = some (some 900)) ∧
    (framable (x 0x20).rpe.addrR = false ∧ (x 0x20).afterTurn.session.cleared = true ∧
      after (step (x 0x20)) (fun t => t.sensor.clearedAt) = some (some 1)) ∧
    (framable (x 0x1F).rpe.addrR = true ∧
      sensorSettles (x 0x1F).cfg (x 0x1F).sensor (x 0x1F).clock.sessionSince = false ∧
      after (step (x 0x1F)) (fun t => t.sensor.clearedAt) = some none) := by decide

/-- Both clauses: taken and not taken. -/
theorem witness_FailedWriteLeavesOldOrNewValue :
    let s := inPhase .wrSession .write true 0x04 0x01 [.rpe] [answer .timeout 0 0]
    let t := inPhase .wrSession .write true 0x04 0x01 [.rpe] [{ answer .noAck 0 0 with latched := false }]
    (s.turn = .rpe ∧ s.rpe.phase = .wrSession ∧ s.rpe.sessOpen = true ∧ s.afterTurn.session.outcome ≠ .ok ∧
      framable s.rpe.addrR = true ∧ s.afterTurn.session.quiet ∧ s.afterTurn.session.latched = true ∧
      after (step s) (fun t => t.sensor.regs) = some [(4, 0x01)]) ∧
    (t.afterTurn.session.outcome ≠ .ok ∧ t.afterTurn.session.latched = false ∧
      after (step t) (fun t => t.sensor.regs) = some []) := by decide

/-- P4 (spec/95_test_vectors.md): 0x04 written with 0x01 and read back. -/
def echo : State :=
  { at_ .busConfigured [.rpe, .rpe, .rpe, .rpe, .settleTimer, .rpe, .rpe]
      [answer .ok 0 0, { answer .ok 0 0 with ptr := 0x04 }, answer .ok 0x01 0x7E] with
    sensor := ⟨[(5, 0x7E)], 0, true, true, none⟩ }
def echoT : State := nextOr echo (exec (.writeRegister 0x04 0x01) echo)
def echoW : State := nextOr echo (Host.Core.run core 2 echoT)
def echoR : State := nextOr echo (exec (.readRegister 0x04 0) echoW)
def echoX : State := nextOr echo (Host.Core.run core 4 echoR)
def echoZ : State := nextOr echo (Host.Core.run core 1 echoX)
theorem witness_RoundTrip_answers :
    EchoAnswer autoIncrement .w 0x04 echo.sensor (answer .ok 0 0) ∧
    EchoAnswer autoIncrement .p 0x04 echoW.sensor { answer .ok 0 0 with ptr := 0x04 } ∧
    EchoAnswer autoIncrement .d 0x04 echoX.sensor (answer .ok 0x01 0x7E) :=
  ⟨⟨rfl, rfl, ⟨rfl, rfl⟩, (nomatch ·), (nomatch ·)⟩, ⟨rfl, rfl, ⟨rfl, rfl⟩, fun _ => rfl, (nomatch ·)⟩,
    ⟨rfl, rfl, ⟨rfl, rfl⟩, (nomatch ·), fun _ => by decide⟩⟩

theorem witness_RoundTrip_steps :
    exec (.writeRegister 0x04 0x01) echo = .next echoT ∧ Reaches 2 echoT echoW ∧
    exec (.readRegister 0x04 0) echoW = .next echoR ∧ Reaches 4 echoR echoX ∧ Reaches 1 echoX echoZ :=
  ⟨rfl, rfl, rfl, rfl, rfl⟩
theorem witness_RoundTrip_start : echo.Inv ∧ echo.rpe.phase = .idle ∧ framable 0x04 = true :=
  ⟨inv_idle _ rfl rfl rfl rfl rfl rfl rfl rfl, rfl, rfl⟩

theorem witness_DecodeDeliversTheReport : (at_ .ready [] []).cfg.layout = defaultLayout := rfl
/-- Each clause of the clipping law at its boundary: T6, T7, T10, T11. -/
theorem witness_CoordinatesAreClipped :
    xRaw cfg0 0x00003E7E0000#48 = 126 ∧ yRaw cfg0 0x00003E7E0000#48 = 62 ∧
    xRaw cfg0 0x00003F7F0000#48 = 127 ∧ yRaw cfg0 0x00003F7F0000#48 = 63 ∧
    xRaw cfg0 0x0057BF7F0000#48 = 1919 ∧ yRaw cfg0 0x0057BF7F0000#48 = 1471 ∧
    xRaw cfg0 0x0057C0800000#48 = 1920 ∧ yRaw cfg0 0x0057C0800000#48 = 1472 := by decide
/-- T2 and T15 differ in ignored bits only. -/
theorem witness_IgnoredPacketBits :
    0xC0000000FF40#48 &&& 0x3FFFFFFF00BF#48 = 0#48 &&& 0x3FFFFFFF00BF#48 ∧ (0xC0000000FF40#48 : Packet) ≠ 0#48 := by
  decide
theorem witness_IsDataReady : (1#1 : Level) = (at_ .ready [] []).cfg.drActiveLevel ∧ (0#1 : Level) ≠ (at_ .ready [] []).cfg.drActiveLevel := by
  decide
/-- Both outcomes with an idle engine; a busy one, beside which it waits, also in the settling delay. -/
theorem witness_InitializeCompletes :
    let s := at_ .uninitialized [.slc] []
    let f : State := { s with inputs := { script [.slc] [] with configs := [⟨.rejected, .ok⟩] } }
    let b (p : Phase) : State := { configuring [⟨.ok, .ok⟩] with rpe := (inPhase p .read true 4 1 [] []).rpe }
    s.slc.lcBusy = false ∧ s.slc.lcState = .uninitialized ∧ s.rpe.phase = .idle ∧ s.inputs.turns = [.slc] ∧
    s.config.bus = .ok ∧ s.config.pin = .ok ∧
    f.slc.lcBusy = false ∧ ¬ (f.config.bus = .ok ∧ f.config.pin = .ok) ∧ f.rpe.phase = .idle ∧
    after (Host.Core.run core 1 (nextOr f (exec .initializeSensor f))) (fun t => (t.rpe.resValid, t.rpe.resCode)) =
      some (true, .config) ∧
    (b .rdSettle).slc.lcBusy = true ∧ (b .rdSettle).slc.stage = .configuring ∧ (b .rdSettle).turn = .slc ∧
    after (step (b .rdSettle)) (fun t => (t.slc.stage, t.trace)) = some (.configuring, []) ∧
    after (step (b .rdDataSession)) (fun t => (t.slc.stage, t.trace)) = some (.configuring, []) ∧
    after (step (b .idle)) (fun t => t.slc.lcState) = some .busConfigured := by
  decide

theorem witness_EnableDataFeedCompletes :
    let s := at_ .busConfigured [.slc, .rpe, .rpe] [answer .ok 0 0]
    s.Inv ∧ s.slc.lcBusy = false ∧ s.slc.lcState = .busConfigured ∧ s.rpe.phase = .idle ∧
      s.inputs.turns = [.slc, .rpe, .rpe] ∧ s.session.outcome = .ok ∧
      sensorSettles s.cfg s.sensor s.clock.now = false := ⟨inv_at _ _ _, rfl, rfl, rfl, rfl, rfl, rfl⟩

theorem witness_ClearStatusFlagsCompletes :
    let s := at_ .feedEnabled [.slc, .rpe, .rpe, .postClearTimer] [answer .ok 0 0]
    s.Inv ∧ s.slc.lcBusy = false ∧ s.slc.lcState = .feedEnabled ∧ s.rpe.phase = .idle ∧ s.session.outcome = .ok ∧
      s.inputs.turns = [.slc, .rpe, .rpe, .postClearTimer] ∧ (∀ c, s.sensor.clearedAt = some c → c ≤ s.clock.now) :=
  ⟨inv_at _ _ _, rfl, rfl, rfl, rfl, rfl, nofun⟩
theorem witness_ClearStatusFlagsFails :
    let s := at_ .feedEnabled [.slc, .rpe, .rpe] [answer .timeout 0 0]
    let r := at_ .flagsCleared [.slc, .rpe, .rpe] [answer .noAck 0 0]
    (s.Inv ∧ s.slc.lcBusy = false ∧ s.slc.lcState = .feedEnabled ∧ s.rpe.phase = .idle ∧ s.session.outcome ≠ .ok ∧
      s.inputs.turns = [.slc, .rpe, .rpe]) ∧
    (r.Inv ∧ r.slc.lcState = .flagsCleared ∧ r.session.outcome ≠ .ok) :=
  ⟨⟨inv_at _ _ _, rfl, rfl, rfl, by decide, rfl⟩, inv_at _ _ _, rfl, by decide⟩
theorem witness_SlcAcceptance :
    (at_ .busConfigured [] []).slc.lcBusy = false ∧ (at_ .ready [] []).slc.lcBusy = false ∧
    (at_ .uninitialized [] []).slc.lcBusy = false ∧ (at_ .uninitialized [] []).slc.lcState = .uninitialized ∧
    (at_ .busConfigured [] []).slc.lcState = .busConfigured ∧ (at_ .ready [] []).slc.lcState = .ready := by decide

/-- Refused when free, held when busy. -/
theorem witness_SlcRefuses :
    (at_ .terminal [] []).slc.lcBusy = false ∧ (at_ .terminal [] []).slc.lcState ≠ .uninitialized ∧
    (feedWrite .ok).slc.lcBusy = true ∧
    after (exec .clearStatusFlags (feedWrite .ok)) (fun s => s.ports.slc) = some [2#2] := by decide
/-- The SLC's own turn, and a read accepted in the delay, which begins a report cycle. -/
theorem witness_OnlyTheTimerEndsThePostClearDelay :
    let s : State := { at_ .ready [.slc] [] with slc := { lcState := .ready, lcBusy := true, stage := .postClear } }
    let r : State := { at_ .flagsCleared [.rpe] [] with
      slc := { lcState := .flagsCleared, lcBusy := true, stage := .postClear }, ports := ⟨[0x9200], []⟩ }
    s.slc.lcBusy = true ∧ s.slc.stage = .postClear ∧ s.turn ≠ .postClearTimer ∧ s.turn ≠ .reset ∧ s.turn = .slc ∧
      after (step s) (fun t => t.slc.lcBusy) = some true ∧
      after (step r) (fun t => t.slc) = some ⟨.ready, true, .postClear⟩ := by decide

/-- A step with an edge of `phase` in it, from a state that meets the invariant and the bus protocol. -/
theorem witness_invariant_step :
    let s : State := { inPhase .wrSession .write true 4 1 [.rpe] [answer .ok 0 0] with
      trace := .accept (.writeRegister 4 1) :: frameCalls cfg0 .w 4 1 }
    s.Inv ∧ s.Conforms ∧ s.turn ≠ .reset ∧ ∃ t, step s = .next t ∧ t.rpe.phase = .idle :=
  ⟨inv_write _ rfl rfl rfl rfl rfl rfl rfl rfl (by decide), by unfold State.Conforms; decide, by decide, _, rfl, rfl⟩
/-- A step with an edge of `lc_state` in it, and one in `Terminal`. -/
theorem witness_LcState :
    (at_ .terminal [.rpe] []).Inv ∧
    after (step (configuring [⟨.ok, .ok⟩])) (fun t => t.slc.lcState) = some .busConfigured ∧
    after (step (at_ .terminal [.rpe] [])) (fun t => t.slc.lcState) = some .terminal :=
  ⟨inv_at _ _ _, by decide, by decide⟩
/-- The SLC in `initialize` meets the invariant. -/
theorem witness_inv_configuring : (configuring []).Inv := by
  constructor <;> simp [configuring, at_, Rpe.hasBytes, Rpe.reset, State.reset, Memory.wf]

/-- In a settling delay: a pure command presented, and run at the host's turn. -/
theorem witness_PureUnits :
    let s : State := { inPhase .rdSettle .read false 0 0 [.host] [] with
      host := ⟨[.present (.decode 0x80)], .ready, none, none⟩ }
    s.turn = .host ∧ s.host.wait = .ready ∧ s.host.program = [.present (.decode 0x80)] ∧
      after (step s) (fun t => (t.rpe.phase, t.host.last)) =
        some (.rdSettle, some (.report ⟨127, 63, 0, 0, true⟩)) := by decide

/-- A state after a read that completed `Ok`, and one after reset. -/
theorem witness_ResultBytes :
    let s : State := { at_ .ready [] [] with
      rpe := { Rpe.reset with opR := .read, resValid := true, resCode := .ok, hiR := some 0x81, loR := some 0x5A } }
    s.Inv ∧ s.rpe.hasBytes = true ∧ (at_ .ready [] []).Inv ∧ (at_ .ready [] []).rpe.hasBytes = false := by
  refine ⟨?_, rfl, inv_at _ _ _, rfl⟩
  constructor <;> simp [at_, Rpe.hasBytes, Rpe.reset, State.reset, Memory.wf]
/-- Inside a session, and outside one. -/
theorem witness_BlockReset :
    (inPhase .wrSession .write true 4 1 [.reset] []).turn = .reset ∧ (at_ .ready [.reset] []).turn = .reset ∧
    (at_ .ready [.reset] []).rpe.phase = .idle := by decide
/-- A PKT_LEN of six, its highest PKT_BASE, and a failed read. -/
theorem witness_ReadPacket :
    cfg0.pktLen = 6 ∧ Stmt.readPacket.wf ({ cfg0 with pktBase := 0x7B } : Config.Params) = true ∧
    CmdResult.err .noAck ∈ [CmdResult.okPair 1 2, .err .noAck, .okPair 3 4] := by decide

theorem witness_PseudoInstructions : (Stmt.readRegister (.pktBase 0x6D)).wf cfg0 = true := by decide
/-- An SLC command, an RPE command, a packet, a sample and a suspension. -/
theorem witness_HostDoesItsNextAction :
    let p (x : HostAction) : State := { at_ .ready [.host] [] with host := ⟨[x], .ready, none, none⟩ }
    (p .sample).turn = .host ∧ (p .sample).host.wait = .ready ∧ (p .sample).host.program = [.sample] ∧
    after (step (p (.present .clearStatusFlags))) (fun t => (t.ports.slc, t.host.wait)) = some ([2], .result .slc 0) ∧
    after (step (p (.present (.readRegister 0x12 0)))) (fun t => (t.ports.rpe, t.host.wait)) =
      some ([0x9200], .result .rpe 0) ∧
    after (step (p (.present (.decode 0)))) (fun t => (t.ports, t.host.wait)) = some (⟨[], []⟩, .ready) ∧
    after (step (p .sample)) (fun t => (t.host.last, t.inputs.levels)) = some (some (.level true), []) ∧
    after (step (p (.suspend 50))) (fun t => (t.host.wait, t.trace)) = some (.timer 0 50, [.tpSuspend .host 50]) := by
  decide

/-- No result yet, an error, and a value. -/
theorem witness_AnErrorEndsTheHostsProgram :
    let s : State := { at_ .ready [.host] [] with
      host := ⟨[.suspend 5], .result .rpe 1, none, none⟩, trace := [.result .rpe .ok, .bpOpen] }
    let e : State := { s with trace := s.trace ++ [.result .rpe (.err .noAck)] }
    let o : State := { s with trace := s.trace ++ [.result .rpe .ok] }
    s.turn = .host ∧ s.host.wait = .result .rpe 1 ∧ after (step s) (fun t => t.host) = some s.host ∧
    after (step e) (fun t => t.host) = some ⟨[], .ready, some .noAck, some (.err .noAck)⟩ ∧
    after (step o) (fun t => t.host) = some ⟨[.suspend 5], .ready, none, some .ok⟩ := by decide

/-- The timer's turn, and the host's and the engine's while the suspension is pending. -/
theorem witness_HostSuspension :
    let s (a : Config.Agent) : State := { at_ .ready [a] [] with host := ⟨[], .timer 7 50, none, none⟩ }
    (s .hostTimer).host.wait = .timer 7 50 ∧ (s .hostTimer).turn = .hostTimer ∧
    after (step (s .hostTimer)) (fun t => t.clock.now) = some 57 ∧
    (s .host).host.wait = .timer 7 50 ∧ (s .host).turn ≠ .hostTimer ∧
    after (step (s .host)) (fun t => t.host.wait) = some (.timer 7 50) ∧
    after (step (s .rpe)) (fun t => t.host.wait) = some (.timer 7 50) := by decide
/-- The host's suspension ends inside a session at the boundary of its deadline, and not after it; and not before the
session of a phase is opened. -/
def during (opened : Bool) (units : Nat) (a : Config.Agent) : State :=
  { inPhase .wrSession .write opened 4 1 [a] [answer .timeout 0 0] with host := ⟨[], .timer 0 units, none, none⟩ }
theorem witness_HostSuspension_in_session :
    (during true 1000 .hostTimer).mayReach ((during true 1000 .hostTimer).afterTurn.hostTimerEnd 0 1000) = true ∧
    after (step (during true 1000 .hostTimer)) (fun t => (t.clock.now, t.host.wait)) = some (1000, .ready) ∧
    (during true 1001 .hostTimer).mayReach ((during true 1001 .hostTimer).afterTurn.hostTimerEnd 0 1001) = false ∧
    after (step (during true 1001 .hostTimer)) (fun t => (t.clock.now, t.host.wait)) = some (0, .timer 0 1001) ∧
    after (step (during false 1 .hostTimer)) (fun t => (t.clock.now, t.host.wait)) = some (0, .timer 0 1) := by decide
/-- An open session, executed, and one whose time another suspension has used up; and one that is to be opened. -/
theorem witness_SessionPhaseEndsWithinItsDeadline :
    (during true 0 .rpe).Inv ∧ (during true 0 .rpe).rpe.phase.frame = some .w ∧ (during true 0 .rpe).rpe.sessOpen = true ∧
    after (step (during true 0 .rpe)) (fun t => t.clock.now) = some 1000 ∧
    (after (step (during true 1000 .hostTimer)) (fun t => { t with inputs := script [.rpe] [answer .ok 0 0] }) >>=
      fun t => after (step t) (fun u => u.clock.now)) = some 1000 ∧
    (during false 0 .rpe).Inv ∧ (during false 0 .rpe).rpe.sessOpen = false :=
  ⟨inv_write _ rfl rfl rfl rfl rfl rfl rfl rfl (by decide), rfl, rfl, by decide, by decide,
    inv_write _ rfl rfl rfl rfl rfl rfl rfl rfl (by decide), rfl⟩

end Sys2Proof.Tests
end

section
/-! Proofs of the scope of a step: what the unit whose turn it is does with the oldest word at its port, and what the
host does with the next action of its program (R9, R14, R61, R63, R66, R96, R109). -/

namespace Sys2Proof.Machine

/-! ### Whose turn it is, and the word it takes -/

/-- The idle engine's turn: the oldest word at its port is taken and run (R14). -/
theorem step_rpe_idle {s : State} {w : Cmd16} {ws : List Cmd16} (ht : s.turn = .rpe) (hp : s.rpe.phase = .idle)
    (hw : s.ports.rpe = w :: ws) :
    step s = exec (decodeCmd16 w) (s.afterTurn.setPorts { s.ports with rpe := ws }) := by
  simp [step_of_turn s ht, takeTurn, rpeTurn, hp, hw]

/-- The free SLC's turn, with a word that decodes to a command (R61). -/
theorem step_slc_free_ok {s : State} {w : LcWord} {ws : List LcWord} {i : Instr} (ht : s.turn = .slc)
    (hb : s.slc.lcBusy = false) (hw : s.ports.slc = w :: ws) (hd : decodeLc2 w = .ok i) :
    step s = exec i (s.afterTurn.setPorts { s.ports with slc := ws }) := by
  simp [step_of_turn s ht, takeTurn, slcTurn, hb, hw, hd]

/-- The free SLC's turn, with a word that is no command (R63). -/
theorem step_slc_free_error {s : State} {w : LcWord} {ws : List LcWord} {e : DecodeError} (ht : s.turn = .slc)
    (hb : s.slc.lcBusy = false) (hw : s.ports.slc = w :: ws) (hd : decodeLc2 w = .error e) :
    step s = .refused .reservedLc2 := by
  simp [step_of_turn s ht, takeTurn, slcTurn, hb, hw, hd]

/-- The host's turn with nothing to wait for: the next action of its program is taken and done (R66). -/
theorem step_host_ready {s : State} {x : HostAction} {rest : List HostAction} (ht : s.turn = .host)
    (hw : s.host.wait = .ready) (hp : s.host.program = x :: rest) :
    step s = hostDo x (s.afterTurn.setHost { s.host with program := rest }) := by
  simp [step_of_turn s ht, takeTurn, hostTurn, hw, hp]

/-! ### The level of the pin does not depend on the host -/

@[simp] theorem State.level_setHost (s : State) (h : HostFlow) : (s.setHost h).level = s.level := rfl

@[simp] theorem State.afterLevel_setHost_inputs (s : State) (h : HostFlow) :
    (s.setHost h).afterLevel.inputs = s.afterLevel.inputs := by
  unfold State.afterLevel
  rw [State.setHost_inputs]
  split <;> rfl

/-! ### The two pure commands -/

/-- `decode` returns its report to the caller and shows it in the trace (R100, R109). -/
theorem exec_decode (P : Packet) (s : State) :
    exec (.decode P) s = .next ((s.emit [.result .trd (.report (decodeReport s.cfg P))]).answer
      (.report (decodeReport s.cfg P))) := rfl

/-- `isDataReady` reads the pin once and returns the answer to the caller (R95, R96). -/
theorem exec_isDataReady (d : Level) (s : State) :
    exec (.isDataReady d) s =
      .next ((s.emit [.pinRead s.cfg.drPin d]).answer (.level (dataReady s.cfg d))) := rfl

/-- A pure command changes the value that the caller has and adds events to the trace, in every state. -/
theorem exec_pure {i : Instr} (hi : (∃ P, i = .decode P) ∨ ∃ d, i = .isDataReady d) (s : State) :
    ∃ r es, exec i s = .next { s with host := { s.host with last := some r }, trace := s.trace ++ es } := by
  obtain ⟨P, rfl⟩ | ⟨d, rfl⟩ := hi
  · exact ⟨_, _, exec_decode P s⟩
  · exact ⟨_, _, exec_isDataReady d s⟩

/-! ### One action of the host -/

theorem encode_eq_pkt48 {i : Instr} {P : Packet} : encode i = .pkt48 P ↔ i = .decode P := by
  cases i <;> simp [encode]

theorem encode_eq_pin1 {i : Instr} {d : Level} : encode i = .pin1 d ↔ i = .isDataReady d := by
  cases i <;> simp [encode]

theorem hostDo_present_cmd16 {i : Instr} {w : Cmd16} (h : encode i = .cmd16 w) (s : State) :
    hostDo (.present i) s = .next (hostAwait .rpe (holdRpe w s)) := by
  simp [hostDo, hostCommand, h]

theorem hostDo_present_lc2 {i : Instr} {w : LcWord} (h : encode i = .lc2 w) (s : State) :
    hostDo (.present i) s = .next (hostAwait .slc (holdSlc w s)) := by
  simp [hostDo, hostCommand, h]

/-- The host evaluates a pure command itself, at once (R9, R96, R109). -/
theorem hostDo_present_pure {i : Instr} (hi : (∃ P, i = .decode P) ∨ ∃ d, i = .isDataReady d) (s : State) :
    hostDo (.present i) s = exec i s := by
  obtain ⟨P, rfl⟩ | ⟨d, rfl⟩ := hi <;> rfl

/-- A sample is `isDataReady` at the level that the environment answers (R95, R96). -/
theorem hostDo_sample (s : State) : hostDo .sample s = exec (.isDataReady s.level) s.afterLevel := rfl

theorem hostDo_suspend (n : Nat) (s : State) :
    hostDo (.suspend n) s =
      .next ((s.setHost { s.host with wait := .timer s.clock.now n }).emit [.tpSuspend .host n]) := rfl

/-- What is said of every command that equals `i` is said of `i`. -/
theorem forall_eq_imp_iff {α : Type} {i : Instr} {p : Instr → α → Prop} :
    (∀ j a, i = j → p j a) ↔ ∀ a, p i a :=
  ⟨fun h a => h i a rfl, fun h _ a e => e ▸ h a⟩

/-! ### The statements -/

/-- Settles O9: each unit's turn is run by its own rule above, and the decoder of its port names the command. -/
theorem stepRunsTheWordAtThePort : Obligations.StepRunsTheWordAtThePort := by
  intro s
  refine ⟨fun w ws i ht hp hw hd => ?_, fun w ws i ht hb hw hd => step_slc_free_ok ht hb hw hd,
    fun w i rest ht hr hd hp => ?_, fun i rest ht hr hp hd => ?_,
    fun w ws ht hb hw hd => step_slc_free_error ht hb hw hd⟩
  · cases hd
    exact step_rpe_idle ht hp hw
  · cases hd
    exact (step_host_ready ht hr hp).trans (hostDo_present_pure (.inl ⟨w, rfl⟩) _)
  · cases hd
    exact (step_host_ready ht hr hp).trans (hostDo_sample _)

/-- Settles O40: `exec_pure` in the state at hand, and in the one in which the host has taken its turn and its action. -/
theorem pureUnitsRunAtAnyTime : Obligations.PureUnitsRunAtAnyTime := by
  intro s i hi
  refine ⟨exec_pure hi s, fun rest ht hr hp => ?_⟩
  obtain ⟨r, es, he⟩ := exec_pure hi (s.afterTurn.setHost { s.host with program := rest })
  refine ⟨_, r, by rw [step_host_ready ht hr hp, hostDo_present_pure hi, he], ?_⟩
  simp

/-- Settles O46: the action is done by the rule of its kind, and a presented command by the port of its word. -/
theorem hostDoesItsNextAction : Obligations.HostDoesItsNextAction := by
  intro s x rest ht hr hp
  rw [step_host_ready ht hr hp]
  cases x with
  | sample =>
    rw [hostDo_sample, exec_isDataReady]
    exact ⟨_, rfl, by simp [dataReady]⟩
  | suspend n =>
    rw [hostDo_suspend]
    exact ⟨_, rfl, by simp⟩
  | present i =>
    cases he : encode i with
    | cmd16 w =>
      rw [hostDo_present_cmd16 he]
      exact ⟨_, rfl, by simp [hostAwait, forall_eq_imp_iff, ← encode_eq_pkt48, he]⟩
    | lc2 w =>
      rw [hostDo_present_lc2 he]
      exact ⟨_, rfl, by simp [hostAwait, forall_eq_imp_iff, ← encode_eq_pkt48, he]⟩
    | pkt48 P =>
      obtain rfl := encode_eq_pkt48.1 he
      rw [hostDo_present_pure (.inl ⟨P, rfl⟩), exec_decode]
      exact ⟨_, rfl, by simp [forall_eq_imp_iff, he]⟩
    | pin1 d =>
      obtain rfl := encode_eq_pin1.1 he
      rw [hostDo_present_pure (.inr ⟨d, rfl⟩), exec_isDataReady]
      exact ⟨_, rfl, by simp [forall_eq_imp_iff, he]⟩

end Sys2Proof.Machine
end

section
/-! Rules of the parts of a step that speak of the engine's registers: which command a session phase belongs to, what a
session leaves at the ports and of the parameters, and that no move goes back in time (R12, R14, R25, R132, R160). -/

namespace Sys2Proof.Machine

@[simp] theorem Phase.frame_eq_w {p : Phase} : p.frame = some .w ↔ p = .wrSession := by cases p <;> simp [Phase.frame]

@[simp] theorem Phase.frame_eq_p {p : Phase} : p.frame = some .p ↔ p = .rdPtrSession := by
  cases p <;> simp [Phase.frame]

@[simp] theorem Phase.frame_eq_d {p : Phase} : p.frame = some .d ↔ p = .rdDataSession := by
  cases p <;> simp [Phase.frame]

/-- A step inside a session takes no word from the ports and leaves the parameters, whether it opens it or ends it. -/
theorem sessionStep_ports_cfg (k : FrameKind) (s : State) :
    (sessionStep k s).ports = s.ports ∧ (sessionStep k s).cfg = s.cfg := by
  cases ho : s.rpe.sessOpen with
  | false => rw [sessionStep_open ho]; simp
  | true =>
    obtain ⟨_, _, hports, hcfg, _⟩ := sessionStep_rest (k := k) ho
    exact ⟨hports, hcfg⟩

/-- A step inside a session does not go back in time. -/
theorem le_sessionStep_now (k : FrameKind) (s : State) : s.clock.now ≤ (sessionStep k s).clock.now := by
  cases ho : s.rpe.sessOpen with
  | false => rw [sessionStep_open ho]; simp
  | true =>
    obtain ⟨_, _, _, _, _, hnow⟩ := sessionStep_rest (k := k) ho
    rw [hnow]
    exact s.le_sessionEnd

/-- A suspension does not end before now (R160). -/
theorem le_resumeTime (p : Config.Params) (now since units extra : Nat) : now ≤ resumeTime p now since units extra :=
  Nat.le_trans (Nat.le_max_left _ _) (Nat.le_add_right _ _)

/-! ### A command presented to the engine -/

theorem presentRpe_busy {s : State} (hp : s.rpe.phase ≠ .idle) (op : RpeOp) (a : RegAddr) (v : Byte) :
    presentRpe op a v s = .next (holdRpe (encodeCmd16 op.code a v) s) := by
  simp [presentRpe, State.busy_eq_true.2 hp]

/-- STRICT_ADDR stops no framable address, and none at all when it is false (R64). -/
theorem presentRpe_idle {s : State} {a : RegAddr} (hp : s.rpe.phase = .idle)
    (ha : s.cfg.strictAddr = false ∨ framable a = true) (op : RpeOp) (v : Byte) :
    presentRpe op a v s = .next (acceptRpe op a v s) := by
  rcases ha with ha | ha <;> simp [presentRpe, State.busy_eq_false.2 hp, ha]

theorem encodeCmd16_write (a : RegAddr) (v : Byte) :
    encodeCmd16 RpeOp.write.code a v = a.zeroExtend 16 <<< 8 ||| v.zeroExtend 16 := by
  simp [encodeCmd16, RpeOp.code]

theorem encodeCmd16_read (a : RegAddr) (v : Byte) :
    encodeCmd16 RpeOp.read.code a v = 0x8000#16 ||| a.zeroExtend 16 <<< 8 ||| v.zeroExtend 16 := rfl

theorem lcAfterAccept_read (l : LcState) : lcAfterAccept .read l = if l = .flagsCleared then .ready else l := by
  cases l <;> rfl

end Sys2Proof.Machine
end

section
/-! The invariant of the registers and of RAP space, in its parts: what it says of the engine, of the SLC beside the
engine, and of the clock. Each move of the machine keeps each part (R12, R15 to R17, R21, R121, R132). -/

namespace Sys2Proof.Machine

/-- What the invariant says of the engine's registers alone (R12, R14 to R17). -/
structure Rpe.Sound (r : Rpe) : Prop where
  open_in_session : r.sessOpen = true → r.phase.frame ≠ none
  result_in_idle : r.resValid = true → r.phase = .idle
  hi_holds : r.hiR.isSome = r.hasBytes
  lo_holds : r.loR.isSome = r.hasBytes
  write_phase : r.phase = .wrSession → r.opR = .write
  read_phase : r.phase ≠ .wrSession → r.phase ≠ .idle → r.opR = .read

/-- What the invariant says of the SLC beside an engine with the registers `r` (R21, R117, R118, R121). -/
structure Slc.Sound (c : Slc) (r : Rpe) : Prop where
  busy_in_command : c.lcBusy = true ↔ c.stage ≠ .idle
  await_own : ∀ op, c.stage = .await op →
    r.phase = .wrSession ∧ r.addrR = (slcWrite op).1 ∧ r.valR = (slcWrite op).2
  request_allowed : ∀ op, c.stage = .request op → slcAllowed op c.lcState = true
  await_allowed : ∀ op, c.stage = .await op → slcAllowed op c.lcState = true
  postClear_allowed : c.stage = .postClear → slcAllowed .clearStatusFlags c.lcState = true
  configuring_allowed : c.stage = .configuring → c.lcState = .uninitialized

/-- The time lies within the deadline of a session that is open (R132, R162). -/
def Clock.InDeadline (c : Clock) (sessOpen : Bool) : Prop :=
  sessOpen = true → c.sessionSince ≤ c.now ∧ c.now ≤ c.sessionSince + doc.tDeadlineMs

theorem State.inv_iff {s : State} :
    s.Inv ↔ s.rpe.Sound ∧ s.slc.Sound s.rpe ∧ s.clock.InDeadline s.rpe.sessOpen ∧ s.sensor.regs.wf = true :=
  ⟨fun ⟨h1, h2, h3, h4, h5, h6, h7, h8, h9, h10, h11, h12, h13, h14⟩ =>
    ⟨⟨h1, h2, h3, h4, h5, h6⟩, ⟨h7, h8, h9, h10, h11, h12⟩, h13, h14⟩,
   fun ⟨⟨h1, h2, h3, h4, h5, h6⟩, ⟨h7, h8, h9, h10, h11, h12⟩, h13, h14⟩ =>
    ⟨h1, h2, h3, h4, h5, h6, h7, h8, h9, h10, h11, h12, h13, h14⟩⟩

theorem Clock.inDeadline_closed (c : Clock) : c.InDeadline false := nofun

/-! ### The engine -/

/-- A session phase belongs to a `readRegister` exactly when its session is no register write (R12). -/
theorem Rpe.Sound.read_iff {r : Rpe} {k : FrameKind} (h : r.Sound) (hk : r.phase.frame = some k) :
    r.opR = .read ↔ k ≠ .w := by
  cases k with
  | w => simp [h.write_phase (Phase.frame_eq_w.1 hk)]
  | p => simp [h.read_phase, Phase.frame_eq_p.1 hk]
  | d => simp [h.read_phase, Phase.frame_eq_d.1 hk]

/-- An idle engine with no session open: only the result latches are left to look at. -/
theorem Rpe.Sound.of_idle {r : Rpe} (hp : r.phase = .idle) (ho : r.sessOpen = false)
    (hh : r.hiR.isSome = r.hasBytes) (hl : r.loR.isSome = r.hasBytes) : r.Sound := by
  constructor <;> simp [hp, ho, hh, hl]

theorem Rpe.Sound.closed_of_no_session {r : Rpe} (h : r.Sound) (hf : r.phase.frame = none) : r.sessOpen = false :=
  Bool.eq_false_iff.2 fun ho => h.open_in_session ho hf

theorem Rpe.sound_reset : Rpe.reset.Sound := .of_idle rfl rfl rfl rfl

/-- Acceptance starts in a session phase of the operation, with no result. -/
theorem Rpe.sound_accepted (r : Rpe) (op : RpeOp) (a : RegAddr) (v : Byte) :
    Rpe.Sound { r with
      opR := op, addrR := a, valR := v, phase := op.start, resValid := false, hiR := none, loR := none } := by
  cases op <;> constructor <;> simp [RpeOp.start, Phase.frame, Rpe.hasBytes]

theorem Rpe.Sound.opened {r : Rpe} {k : FrameKind} (h : r.Sound) (hk : r.phase.frame = some k) :
    Rpe.Sound { r with sessOpen := true } :=
  ⟨by simp [hk], h.result_in_idle, h.hi_holds, h.lo_holds, h.write_phase, h.read_phase⟩

/-- From one phase of a read to another, with no session open. -/
theorem Rpe.Sound.moved {r : Rpe} (h : r.Sound) (hw : r.phase ≠ .wrSession) (hi : r.phase ≠ .idle) (p : Phase)
    (hpw : p ≠ .wrSession) : Rpe.Sound { r with sessOpen := false, phase := p } :=
  ⟨nofun, fun hv => absurd (h.result_in_idle hv) hi, h.hi_holds, h.lo_holds, fun hp => absurd hp hpw,
    fun _ _ => h.read_phase hw hi⟩

theorem outcomeCode_eq_ok {o : Config.SessionOutcome} : outcomeCode o = .ok ↔ o = .ok := by
  cases o <;> simp [outcomeCode]

/-- An executed session leaves bytes exactly when it was a read phase that returned `Ok`. -/
theorem sessionStep_rpe_sound {k : FrameKind} {s : State} (h : s.rpe.Sound) (hk : s.rpe.phase.frame = some k) :
    (sessionStep k s).rpe.Sound := by
  cases ho : s.rpe.sessOpen with
  | false => rw [sessionStep_open ho, openSession_rpe]; exact h.opened hk
  | true =>
    rw [sessionStep_rpe ho]
    split
    · rename_i hp
      rw [hp.1, Phase.frame_eq_p] at hk
      exact h.moved (by simp [hk]) (by simp [hk]) .rdSettle (by simp)
    · rename_i hp
      have hbytes : (k = .d ∧ s.session.outcome = .ok) ↔
          (outcomeCode s.session.outcome = .ok ∧ s.rpe.opR = .read) := by
        rw [outcomeCode_eq_ok, h.read_iff hk]
        cases k <;> simp_all
      refine .of_idle rfl rfl ?_ ?_ <;> simp [Rpe.hasBytes, apply_ite Option.isSome, hbytes]

/-! ### The SLC -/

/-- A free SLC is sound beside every engine. -/
theorem Slc.Sound.of_free {c : Slc} (hb : c.lcBusy = false) (hs : c.stage = .idle) (r : Rpe) : c.Sound r := by
  constructor <;> simp [hb, hs]

/-- An SLC that awaits nothing does not look at the engine. -/
theorem Slc.Sound.of_not_await {c : Slc} {r : Rpe} (h : c.Sound r) (hn : ∀ op, c.stage ≠ .await op) (r' : Rpe) :
    c.Sound r' :=
  ⟨h.busy_in_command, fun op ho => absurd ho (hn op), h.request_allowed, h.await_allowed, h.postClear_allowed,
    h.configuring_allowed⟩

theorem Slc.Sound.not_await {c : Slc} {r : Rpe} (h : c.Sound r) (hp : r.phase ≠ .wrSession) (op : SlcOp) :
    c.stage ≠ .await op := fun ho => hp (h.await_own op ho).1

/-- A read that begins a report cycle leaves a command allowed that was allowed (R120, R121). -/
theorem slcAllowed_lcAfterAccept {op : SlcOp} {l : LcState} (h : slcAllowed op l = true) (o : RpeOp) :
    slcAllowed op (lcAfterAccept o l) = true := by
  cases o with
  | write => rwa [lcAfterAccept_write]
  | read => cases op <;> cases l <;> simp_all [slcAllowed, lcAfterAccept]

/-- The SLC while the idle engine accepts a command. -/
theorem Slc.Sound.accepted {c : Slc} {r : Rpe} (h : c.Sound r) (hp : r.phase = .idle) (o : RpeOp) (r' : Rpe) :
    Slc.Sound { c with lcState := lcAfterAccept o c.lcState } r' :=
  ⟨h.busy_in_command, fun op ho => absurd ho (h.not_await (by simp [hp]) op),
    fun op hs => slcAllowed_lcAfterAccept (h.request_allowed op hs) o,
    fun op hs => slcAllowed_lcAfterAccept (h.await_allowed op hs) o,
    fun hs => slcAllowed_lcAfterAccept (h.postClear_allowed hs) o,
    fun hs => by
      have hl := h.configuring_allowed hs
      cases o <;> simp [hl, lcAfterAccept]⟩

/-- Whatever goes back to the caller, the SLC ends its command or begins its post-clear delay. -/
theorem returnToCaller_slc_sound {s : State} {r : Rpe} (h : s.slc.Sound r) (r' : Rpe) :
    (returnToCaller s).slc.Sound r' := by
  rcases returnToCaller_cases s with ⟨hn, e⟩ | ⟨op, hs, _, e⟩ | ⟨op, err, _, _, e⟩ <;> rw [e]
  · exact h.of_not_await hn r'
  · cases op with
    | enableDataFeed => exact .of_free rfl rfl r'
    | clearStatusFlags =>
      have hb : s.slc.lcBusy = true := h.busy_in_command.2 (by simp [hs])
      have ha := h.await_allowed _ hs
      constructor <;> simp [slcWriteOk, hb, ha]
  · exact .of_free (by simp [slcWriteFailed]) (by simp [slcWriteFailed]) r'

theorem completeOk_slc_sound {s : State} {r : Rpe} (h : s.slc.Sound r) (b : Option (Byte × Byte)) (r' : Rpe) :
    (completeOk b s).slc.Sound r' := returnToCaller_slc_sound (by simpa using h) r'

theorem completeErr_slc_sound {s : State} {r : Rpe} (h : s.slc.Sound r) (e : ErrorKind) (r' : Rpe) :
    (completeErr e s).slc.Sound r' := returnToCaller_slc_sound (by simpa using h) r'

theorem sessionStep_slc_sound {k : FrameKind} {s : State} (h : s.slc.Sound s.rpe) (hk : s.rpe.phase.frame = some k) :
    (sessionStep k s).slc.Sound (sessionStep k s).rpe := by
  have hc : (closeSession k s).slc.Sound s.rpe := by rwa [closeSession_slc]
  rcases sessionStep_cases k s with ⟨_, e⟩ | ⟨_, _, rfl, e⟩ | ⟨_, _, rfl, e⟩ | ⟨_, _, rfl, e⟩ | ⟨_, _, e⟩ |
    ⟨_, _, e⟩ <;> rw [e]
  · rw [openSession_slc, openSession_rpe]
    exact ⟨h.busy_in_command, h.await_own, h.request_allowed, h.await_allowed, h.postClear_allowed,
      h.configuring_allowed⟩
  · exact completeOk_slc_sound hc _ _
  · rw [beginSettle_slc]
    exact hc.of_not_await (hc.not_await (by simp [Phase.frame_eq_p.1 hk])) _
  · exact completeOk_slc_sound hc _ _
  · exact completeErr_slc_sound hc _ _
  · exact completeErr_slc_sound hc _ _

/-! ### The clock -/

/-- A suspension that may end leaves the time within an open session's deadline. -/
theorem Clock.InDeadline.reached {s : State} {c : Clock} (h : s.clock.InDeadline s.rpe.sessOpen)
    (hs : c.sessionSince = s.clock.sessionSince) (ht : s.clock.now ≤ c.now)
    (hr : c.now = s.clock.now ∨ s.mayReach c.now = true) : c.InDeadline s.rpe.sessOpen := by
  intro ho
  have hd := h ho
  rcases hr with hr | hr
  · omega
  · have := State.mayReach_open ho hr
    omega

theorem sessionStep_inDeadline (k : FrameKind) (s : State) :
    (sessionStep k s).clock.InDeadline (sessionStep k s).rpe.sessOpen := by
  cases ho : s.rpe.sessOpen with
  | false =>
    rw [sessionStep_open ho, openSession_clock]
    exact fun _ => ⟨Nat.le_refl _, Nat.le_add_right _ _⟩
  | true =>
    have hc : (sessionStep k s).rpe.sessOpen = false := by rw [sessionStep_rpe ho]; split <;> rfl
    rw [hc]
    exact Clock.inDeadline_closed _

/-! ### RAP space -/

theorem sessionStep_regs_wf (k : FrameKind) {s : State} (h : s.sensor.regs.wf = true) :
    (sessionStep k s).sensor.regs.wf = true := by
  cases ho : s.rpe.sessOpen with
  | false => rwa [sessionStep_open ho, openSession_sensor]
  | true =>
    rw [(sessionStep_rest ho).1]
    exact regsAfter_wf k _ _ _ _ h

/-! ### Each move of the machine -/

/-- The invariant of an idle engine and a free SLC, both as reset leaves them. -/
theorem State.inv_of_reset {s : State} (hr : s.rpe = Rpe.reset) (hc : s.slc = Slc.reset)
    (hm : s.sensor.regs.wf = true) : s.Inv :=
  State.inv_iff.2 ⟨hr ▸ Rpe.sound_reset, hc ▸ .of_free rfl rfl _, hr ▸ Clock.inDeadline_closed _, hm⟩

/-- The engine accepts a command while it is idle. -/
theorem State.Inv.acceptRpe {s : State} (h : s.Inv) (hp : s.rpe.phase = .idle) (op : RpeOp) (a : RegAddr) (v : Byte) :
    (acceptRpe op a v s).Inv := by
  have ho := h.closed_in_idle hp
  obtain ⟨_, hc, _, hm⟩ := State.inv_iff.1 h
  refine State.inv_iff.2 ⟨?_, ?_, ?_, by simpa using hm⟩
  · rw [acceptRpe_rpe]; exact Rpe.sound_accepted _ _ _ _
  · rw [acceptRpe_slc]; exact hc.accepted hp op _
  · rw [acceptRpe_rpe, ho]; exact Clock.inDeadline_closed _

theorem State.Inv.sessionStep {s : State} {k : FrameKind} (h : s.Inv) (hk : s.rpe.phase.frame = some k) :
    (sessionStep k s).Inv := by
  obtain ⟨hr, hc, _, hm⟩ := State.inv_iff.1 h
  exact State.inv_iff.2 ⟨sessionStep_rpe_sound hr hk, sessionStep_slc_sound hc hk, sessionStep_inDeadline k s,
    sessionStep_regs_wf k hm⟩

/-- A move of the SLC, or of what is presented at the ports, beside the engine. -/
theorem State.Inv.of_slc {s t : State} (h : s.Inv) (hr : t.rpe = s.rpe) (hc : t.slc.Sound s.rpe)
    (ht : t.clock = s.clock) (hm : t.sensor = s.sensor) : t.Inv := by
  obtain ⟨hr', _, ht', hm'⟩ := State.inv_iff.1 h
  exact State.inv_iff.2 ⟨hr ▸ hr', hr ▸ hc, by rwa [hr, ht], hm ▸ hm'⟩

theorem State.Inv.setPorts {s : State} (h : s.Inv) (p : Ports) : (s.setPorts p).Inv := by
  obtain ⟨_, hc, _⟩ := State.inv_iff.1 h
  exact h.of_slc rfl hc rfl rfl

theorem State.Inv.slcIssue {s : State} {op : SlcOp} (h : s.Inv) (hb : s.slc.lcBusy = true)
    (hs : s.slc.stage = .request op) (hp : s.rpe.phase = .idle) : (slcIssue op s).Inv := by
  obtain ⟨hr, _, ht, hm⟩ :=
    State.inv_iff.1 (h.acceptRpe hp .write (slcWrite op).1 (slcWrite op).2)
  refine State.inv_iff.2 ⟨by rwa [slcIssue_rpe], ?_, by rwa [slcIssue_rpe], by simpa using hm⟩
  have ha := h.request_allowed op hs
  rw [slcIssue_slc, slcIssue_rpe]
  constructor <;> simp [hb, ha, RpeOp.start]

theorem State.Inv.slcStart {s : State} {op : SlcOp} (h : s.Inv) (ha : slcAllowed op s.slc.lcState = true) :
    (slcStart op s).Inv := by
  refine h.of_slc (by simp) ?_ (by simp) (by simp)
  rw [slcStart_slc]
  constructor <;> simp [ha]

theorem State.Inv.configureStart {s : State} (h : s.Inv) (hl : s.slc.lcState = .uninitialized) :
    (configureStart s).Inv := by
  refine h.of_slc (by simp) ?_ (by simp) (by simp)
  rw [configureStart_slc]
  constructor <;> simp [hl]

/-- The configuration calls leave an idle engine as it was or with a `ConfigError` in its result fields (R116, R134). -/
theorem configure_rpe_sound {s : State} (h : s.rpe.Sound) (hp : s.rpe.phase = .idle) : (configure s).rpe.Sound := by
  simp only [configure, configDone]
  split
  · simpa using h
  · rw [raiseError_slc_rpe_idle _ _ (by simpa using hp)]
    exact .of_idle (by simpa using hp) (by simpa using h.closed_of_no_session (by simp [hp, Phase.frame]))
      (by simp [Rpe.hasBytes, ErrorKind.resCode]) (by simp [Rpe.hasBytes, ErrorKind.resCode])

theorem State.Inv.configure {s : State} (h : s.Inv) (hp : s.rpe.phase = .idle) : (configure s).Inv := by
  obtain ⟨hr, _, _, hm⟩ := State.inv_iff.1 h
  obtain ⟨_, _, _, _, hregs, hb, hst, _⟩ := configure_rest s
  have hr' := configure_rpe_sound hr hp
  have ho := hr'.closed_of_no_session (by simp [hp, Phase.frame])
  exact State.inv_iff.2 ⟨hr', .of_free hb hst _, ho ▸ Clock.inDeadline_closed _, hregs ▸ hm⟩

theorem State.Inv.resumeSettle {s : State} (h : s.Inv) (hp : s.rpe.phase = .rdSettle) : (resumeSettle s).Inv := by
  obtain ⟨hr, hc, _, hm⟩ := State.inv_iff.1 h
  have ho : s.rpe.sessOpen = false := hr.closed_of_no_session (by simp [hp, Phase.frame])
  refine State.inv_iff.2 ⟨?_, ?_, ?_, by simpa using hm⟩
  · have := hr.moved (by simp [hp]) (by simp [hp]) .rdDataSession (by simp)
    rwa [← ho] at this
  · rw [resumeSettle_slc]
    exact hc.of_not_await (hc.not_await (by simp [hp])) _
  · rw [resumeSettle_rpe, ho]; exact Clock.inDeadline_closed _

theorem State.Inv.resumePostClear {s : State} (h : s.Inv) (hr : s.mayReach s.postClearEnd = true) :
    (resumePostClear s).Inv := by
  obtain ⟨hr', _, ht, hm⟩ := State.inv_iff.1 h
  refine State.inv_iff.2 ⟨by simpa using hr', by rw [resumePostClear_slc]; exact .of_free rfl rfl _, ?_,
    by simpa using hm⟩
  rw [resumePostClear_rpe, resumePostClear_clock]
  exact ht.reached rfl s.le_postClearEnd (.inr hr)

/-- The host's move leaves the block alone, and its suspension ends within an open session's deadline. -/
theorem State.Inv.of_hostEffect {s s' : State} (h : s.Inv) (he : HostEffect s s') : s'.Inv := by
  obtain ⟨hr, hc, ht, hm⟩ := State.inv_iff.1 h
  obtain ⟨_, _, hsession⟩ := he.since
  rw [State.inv_iff, he.rpe, he.slc, he.sensor]
  exact ⟨hr, hc, ht.reached hsession he.time he.reach, hm⟩

/-- Every move keeps the invariant. -/
theorem StepEffect.keeps_inv {who : Config.Agent} {s s' : State} (he : StepEffect who s s') (h : s.Inv) : s'.Inv := by
  cases he with
  | stay => exact h
  | accept op a v ws _ hp => exact (h.setPorts { s.ports with rpe := ws }).acceptRpe hp op a v
  | session k _ hk => exact h.sessionStep hk
  | slcIssue op _ hb hs hp => exact h.slcIssue hb hs hp
  | slcStart op ws _ _ ha => exact (h.setPorts { s.ports with slc := ws }).slcStart ha
  | configureStart ws _ _ hl => exact (h.setPorts { s.ports with slc := ws }).configureStart hl
  | configure _ _ _ hp => exact h.configure hp
  | resumeSettle _ hp => exact h.resumeSettle hp
  | resumePostClear _ _ hr => exact h.resumePostClear hr
  | host _ _ he => exact h.of_hostEffect he
  | reset =>
    exact State.inv_of_reset (blockReset_rpe s) (blockReset_slc s)
      (by rw [blockReset_sensor]; exact sensorAtReset_wf _ _ h.regs_wf)

/-- Settles O35: taking the turn keeps the invariant, and so does each move that a turn can be. -/
theorem stepKeepsTheInvariant : Obligations.StepKeepsTheInvariant :=
  fun _ _ h hs => (step_effect hs).keeps_inv h.afterTurn

/-- Settles O36: reset leaves the engine idle, the SLC free and RAP space with nothing listed. -/
theorem resetMeetsTheInvariant : Obligations.ResetMeetsTheInvariant := State.inv_of_reset rfl rfl reset_regs_wf

end Sys2Proof.Machine
end

section
/-! Proofs of the state's family that need no invariant of their own: what a busy engine holds, the edges of `phase`,
time and parameters, acceptance, and the values after reset (R12, R14, R16, R25, R27, R57, R64, R160). -/

namespace Sys2Proof.Machine

/-! ### Moves of the engine -/

/-- A move of a machine whose engine is busy takes no word from the engine's port (R14). -/
theorem StepEffect.holds_words {who : Config.Agent} {s s' : State} (he : StepEffect who s s')
    (hp : s.rpe.phase ≠ .idle) : ∃ ws, s'.ports.rpe = s.ports.rpe ++ ws := by
  cases he with
  | accept _ _ _ _ _ hi => exact absurd hi hp
  | session k => exact ⟨[], by simp [sessionStep_ports_cfg]⟩
  | configure _ _ _ hi => exact absurd hi hp
  | host _ _ he =>
    obtain ⟨a, b, hab⟩ := he.ports
    exact ⟨a, by rw [hab]⟩
  | _ => exact ⟨[], by simp⟩

/-- A step inside a session stays in its phase or leaves it along its own edge (R12). -/
theorem sessionStep_phase {k : FrameKind} {s : State} (hk : s.rpe.phase.frame = some k) :
    (sessionStep k s).rpe.phase = s.rpe.phase ∨ phaseEdge s.rpe.phase (sessionStep k s).rpe.phase = true := by
  cases ho : s.rpe.sessOpen with
  | false => left; rw [sessionStep_open ho, openSession_rpe]
  | true =>
    right
    rw [sessionStep_rpe ho]
    split
    · rename_i h
      rw [h.1, Phase.frame_eq_p] at hk
      rw [hk]; rfl
    · cases k with
      | w => rw [Phase.frame_eq_w.1 hk]; rfl
      | p => rw [Phase.frame_eq_p.1 hk]; rfl
      | d => rw [Phase.frame_eq_d.1 hk]; rfl

theorem phaseEdge_idle_start (op : RpeOp) : phaseEdge .idle op.start = true := by cases op <;> rfl

theorem StepEffect.phase_edge {who : Config.Agent} {s s' : State} (he : StepEffect who s s') (hw : who ≠ .reset) :
    s'.rpe.phase = s.rpe.phase ∨ phaseEdge s.rpe.phase s'.rpe.phase = true := by
  cases he with
  | accept op a v _ _ hp => exact .inr (by simp [hp, phaseEdge_idle_start])
  | session k _ hk => exact sessionStep_phase hk
  | slcIssue op _ _ _ hp => exact .inr (by simp [hp, phaseEdge_idle_start])
  | resumeSettle _ hp => exact .inr (by simp [hp, phaseEdge])
  | host _ _ he => exact .inl (by rw [he.rpe])
  | reset hr => exact absurd hr hw
  | _ => exact .inl (by simp)

theorem StepEffect.cfg_time {who : Config.Agent} {s s' : State} (he : StepEffect who s s') :
    s'.cfg = s.cfg ∧ s.clock.now ≤ s'.clock.now := by
  cases he with
  | session k => exact ⟨(sessionStep_ports_cfg k s).2, le_sessionStep_now k s⟩
  | configure =>
    obtain ⟨_, hcfg, hclock, _⟩ := configure_rest s
    exact ⟨hcfg, by rw [hclock]⟩
  | resumeSettle => exact ⟨by simp, by simpa using le_resumeTime ..⟩
  | resumePostClear => exact ⟨by simp, by simpa using s.le_postClearEnd⟩
  | host _ _ he => exact ⟨he.cfg, he.time⟩
  | _ => simp

/-! ### A host's read of the result bytes -/

theorem State.readHi_eq_ok {s : State} {b : Byte} : s.readHi = .ok b ↔ s.rpe.hiR = some b := by
  unfold State.readHi; split <;> simp_all

theorem State.readHi_eq_error {s : State} : s.readHi = .error .noValue ↔ s.rpe.hiR = none := by
  unfold State.readHi; split <;> simp_all

theorem State.readLo_eq_ok {s : State} {b : Byte} : s.readLo = .ok b ↔ s.rpe.loR = some b := by
  unfold State.readLo; split <;> simp_all

theorem State.readLo_eq_error {s : State} : s.readLo = .error .noValue ↔ s.rpe.loR = none := by
  unfold State.readLo; split <;> simp_all

theorem Rpe.hasBytes_iff {r : Rpe} :
    r.hasBytes = true ↔ r.resValid = true ∧ r.resCode = .ok ∧ r.opR = .read := by
  simp [Rpe.hasBytes, and_assoc]

/-! ### The statements -/

/-- Settles O11: a busy engine holds the command's word, and no move of the machine takes a word from its port. -/
theorem busyEngineHoldsCommands : Obligations.BusyEngineHoldsCommands := by
  refine ⟨fun s a v hp => ⟨?_, ?_⟩, fun s s' hp hs => ?_⟩
  · rw [← encodeCmd16_write]; exact presentRpe_busy hp .write a v
  · rw [← encodeCmd16_read]; exact presentRpe_busy hp .read a v
  · simpa using (step_effect hs).holds_words (by simpa using hp)

/-- Settles O33: each move but a reset leaves `phase` or takes one edge. -/
theorem phaseMovesAlongItsEdgesOnly : Obligations.PhaseMovesAlongItsEdgesOnly := by
  intro s s' hs hr
  simpa using (step_effect hs).phase_edge hr

/-- Settles O39: no move writes the parameters, and sessions and suspensions end no earlier than now. -/
theorem parametersAreFixedAndTimeIsMonotone : Obligations.ParametersAreFixedAndTimeIsMonotone := by
  intro s s' hs
  simpa using (step_effect hs).cfg_time

/-- Settles O10: an idle engine accepts the command (`presentRpe_idle`), and `acceptRpe` has the stated frame. -/
theorem acceptanceLatchesOperandsAndNothingElse : Obligations.AcceptanceLatchesOperandsAndNothingElse := by
  intro s a v hp ha
  refine ⟨⟨_, presentRpe_idle hp ha .write v, ?_⟩, ⟨_, presentRpe_idle hp ha .read v, ?_⟩⟩
  · simp [RpeOp.start]
  · simp [RpeOp.start, lcAfterAccept_read]

/-- Settles O38: the automaton has read nothing, and the reset engine is idle. -/
theorem resetFollowsTheBusProtocol : Obligations.ResetFollowsTheBusProtocol := rfl

/-- Settles O41: the invariant says when the latches hold a byte, and a read answers the latch. -/
theorem resultBytesAreReadOnlyAfterAnOkRead : Obligations.ResultBytesAreReadOnlyAfterAnOkRead := by
  intro s h
  have hhi := h.hi_holds
  have hlo := h.lo_holds
  rw [← Rpe.hasBytes_iff]
  refine ⟨fun hb => ?_, fun hb => ?_⟩
  · obtain ⟨hi, ehi⟩ := Option.isSome_iff_exists.1 (hhi.trans hb)
    obtain ⟨lo, elo⟩ := Option.isSome_iff_exists.1 (hlo.trans hb)
    exact ⟨hi, lo, State.readHi_eq_ok.2 ehi, State.readLo_eq_ok.2 elo⟩
  · rw [Bool.not_eq_true] at hb
    exact ⟨State.readHi_eq_error.2 (by simpa [hb] using hhi), State.readLo_eq_error.2 (by simpa [hb] using hlo)⟩

/-- Settles O42: each field is a literal of the reset record. -/
theorem resetValues : Obligations.ResetValues := ⟨rfl, rfl, rfl, rfl, rfl, rfl, rfl, rfl, rfl⟩

end Sys2Proof.Machine
end

section
/-! The sensor after an executed session: which register may hold another value, and where the read pointer is (R32, R46,
R72, R81). -/

namespace Sys2Proof.Machine

/-! ### What a session does to the sensor -/

/-- A write that returned `Ok` and did not come too early is taken at every framable address but FIRMVER (R72). -/
theorem writeTaken_of_ok {addr : RegAddr} {a : Config.SessionAnswer} (hf : framable addr = true)
    (hn : addr ≠ doc.firmverReg) (hok : a.outcome = .ok) : writeTaken addr false a = true := by
  simp [writeTaken, hf, hn, hok]

theorem writeTaken_of_latched {addr : RegAddr} {a : Config.SessionAnswer} (hf : framable addr = true)
    (hl : a.latched = true) (early : Bool) : writeTaken addr early a = true := by
  simp [writeTaken, hf, hl]

theorem docWritable_iff {addr : RegAddr} : docWritable addr = true ↔ addr = 0x02#7 ∨ addr = 0x04#7 := by
  rw [docWritable, Bool.or_eq_true, decide_eq_true_iff, decide_eq_true_iff]
  rfl

/-- A write that is taken leaves the value, where DOC calls the register written or the sensor does nothing further,
whatever the sensor did before it. -/
theorem sensorAfter_reg_of_taken {addr : RegAddr} {early : Bool} {a : Config.SessionAnswer}
    (ht : writeTaken addr early a = true) (hd : docWritable addr = true ∨ a.later = []) (v : Byte) (now : Nat)
    (x : Sensor) : (sensorAfter .w addr v early now a x).reg addr = v := by
  refine Sensor.reg_of_read ?_
  simp only [sensorAfter, regsAfter, ht, if_true]
  exact takeWrite_read hd v _

/-- Where the sensor changes nothing of its own accord, a register changes only if it is the one that a write session
addresses and the write is taken. -/
theorem sensorAfter_reg_of_quiet {a : Config.SessionAnswer} (hq : a.quiet) (k : FrameKind) (addr : RegAddr) (v : Byte)
    (early : Bool) (now : Nat) (x : Sensor) (b : RegAddr) :
    (sensorAfter k addr v early now a x).reg b =
      if k = .w ∧ writeTaken addr early a = true ∧ b = addr then v else x.reg b := by
  obtain ⟨hdrift, hlater⟩ := hq
  rcases regsAfter_cases k addr v early a x.regs hdrift hlater with ⟨hk, ht, hm⟩ | ⟨hn, hm⟩
  · by_cases hb : b = addr
    · subst hb
      rw [if_pos ⟨hk, ht, rfl⟩]
      exact Sensor.reg_of_read ((congrArg (Memory.read · _) hm).trans (Memory.read_write_same _ _ _))
    · rw [if_neg fun h => hb h.2.2]
      exact Sensor.reg_congr ((congrArg (Memory.read · _) hm).trans
        (Memory.read_write_other _ v fun h => hb (BitVec.eq_of_toNat_eq h)))
  · rw [if_neg fun h => by simp [hn h.1] at h]
    exact Sensor.reg_congr (congrArg (Memory.read · _) hm)

/-- A pointer phase that returned `Ok` at a framable address sets the read pointer (R46, R81): surely when it did not come
too early, and then too if the oracle says so. -/
theorem sensorAfter_readPtr_of_ok {addr : RegAddr} {early : Bool} {a : Config.SessionAnswer} (hf : framable addr = true)
    (hok : a.outcome = .ok) (he : early = false ∨ a.ptr = addr) (v : Byte) (now : Nat) (x : Sensor) :
    (sensorAfter .p addr v early now a x).readPtr = addr := by
  rcases he with he | he <;> simp [sensorAfter, ptrAfter, hf, hok, he]

/-! ### The engine's turn inside a session -/

/-- The engine's turn inside a session is the session's next step, whether the turn is listed or free. -/
theorem step_rpe_in_session {s : State} {k : FrameKind} (ht : s.turn = .rpe) (hk : s.rpe.phase.frame = some k) :
    step s = .next (sessionStep k s.afterTurn) := by
  rw [step_of_turn s ht]
  cases k with
  | w => simp [takeTurn, rpeTurn, Phase.frame_eq_w.1 hk]
  | p => simp [takeTurn, rpeTurn, Phase.frame_eq_p.1 hk]
  | d => simp [takeTurn, rpeTurn, Phase.frame_eq_d.1 hk]

/-- The sensor after the turn that executes the open session. -/
theorem step_executed_sensor {s s' : State} {k : FrameKind} (ht : s.turn = .rpe) (hk : s.rpe.phase.frame = some k)
    (ho : s.rpe.sessOpen = true) (hs : step s = .next s') :
    s'.sensor = sensorAfter k s.rpe.addrR s.rpe.valR (sensorSettles s.cfg s.sensor s.clock.sessionSince)
      s.afterTurn.sessionEnd s.afterTurn.session s.sensor := by
  rw [step_rpe_in_session ht hk, Host.Outcome.next.injEq] at hs
  obtain ⟨hsensor, _⟩ := sessionStep_rest (k := k) (s := s.afterTurn) (by simpa using ho)
  rw [← hs, hsensor]
  simp [State.early]

/-- Settles O19: `step_executed_sensor` names the sensor afterwards, and each clause is a rule of `sensorAfter`. -/
theorem sessionsWriteOnlyTheAddressedRegister : Obligations.SessionsWriteOnlyTheAddressedRegister := by
  intro s s' k ht hk ho hs
  rw [step_executed_sensor ht hk ho hs]
  refine ⟨?_, ?_, ?_, ?_, rfl, rfl⟩
  · rintro rfl hok he hf hn hd
    rw [he]
    rw [← or_assoc, ← docWritable_iff] at hd
    exact sensorAfter_reg_of_taken (writeTaken_of_ok hf hn hok) hd _ _ _
  · intro _ hq
    rw [sensorAfter_reg_of_quiet hq]
    split
    · exact .inl rfl
    · exact .inr rfl
  · intro hq x hx
    rw [sensorAfter_reg_of_quiet hq, if_neg fun h => hx h.1 h.2.2]
  · rintro rfl hok he hf
    exact sensorAfter_readPtr_of_ok hf hok (.inl he) _ _ _

end Sys2Proof.Machine
end

section
/-! The round trip on an echoing sensor (R47, R48): the turns of a whole command, a write, a pointer phase with its
settling delay and a read phase, each said once, and the three together. -/

namespace Sys2Proof.Machine

/-! ### The turns of a whole command -/

theorem reaches_zero {s t : State} : Reaches 0 s t ↔ t = s :=
  ⟨fun h => (Host.Outcome.next.inj h).symm, fun h => h ▸ rfl⟩

/-- A run of one step more is a step and then the run. -/
theorem reaches_succ {n : Nat} {s u t : State} (hs : step s = .next u) : Reaches (n + 1) s t ↔ Reaches n u t := by
  have : core.step s = .next u := hs
  simp [Reaches, Host.Core.run, this]

/-- The next listed answer to a session, once it has been used up. -/
theorem afterSession_cons {s : State} {a : Config.SessionAnswer} {as : List Config.SessionAnswer}
    (h : s.inputs.sessions = a :: as) :
    s.session = a ∧ s.afterSession.inputs = { s.inputs with sessions := as } := by
  simp [State.session, State.afterSession, h]

/-- The end of a suspension uses up no turn and no answer to a session. -/
theorem afterDelay_lists (s : State) :
    s.afterDelay.inputs.turns = s.inputs.turns ∧ s.afterDelay.inputs.sessions = s.inputs.sessions := by
  unfold State.afterDelay
  split <;> exact ⟨rfl, rfl⟩

/-- What a session that is executed and returns `Ok` leaves of the engine, of the sensor and of the answers. -/
theorem sessionStep_of_ok (k : FrameKind) {s : State} {a : Config.SessionAnswer} {as : List Config.SessionAnswer}
    (ho : s.rpe.sessOpen = true) (ha : s.inputs.sessions = a :: as) (hok : a.outcome = .ok) :
    (sessionStep k s).rpe =
      (if k = .p then { s.rpe with sessOpen := false, phase := .rdSettle }
      else { s.rpe with
        sessOpen := false, phase := .idle, resValid := true, resCode := .ok,
        hiR := if k = .d then some a.b0 else none, loR := if k = .d then some a.b1 else none }) ∧
    (sessionStep k s).sensor = sensorAfter k s.rpe.addrR s.rpe.valR s.early s.sessionEnd a s.sensor ∧
    (sessionStep k s).inputs = { s.inputs with sessions := as } := by
  obtain ⟨hsession, hafter⟩ := afterSession_cons ha
  obtain ⟨hsensor, hinputs, _⟩ := sessionStep_rest (k := k) ho
  rw [hsensor, hinputs, hafter, sessionStep_rpe ho, hsession, hok]
  simp [outcomeCode]

/-- A run that begins with a session that returns `Ok`: two turns of the engine open and execute it. -/
theorem reaches_session_of_ok {t w : State} {k : FrameKind} {n : Nat} {a : Config.SessionAnswer}
    {as : List Config.SessionAnswer} {ts : List Config.Agent} (hk : t.rpe.phase.frame = some k)
    (ho : t.rpe.sessOpen = false) (hses : t.inputs.sessions = a :: as) (ht : t.inputs.turns = .rpe :: .rpe :: ts)
    (hok : a.outcome = .ok) (h : Reaches (n + 2) t w) :
    ∃ u, Reaches n u w ∧ u.rpe.phase = (if k = .p then .rdSettle else .idle) ∧ u.rpe.sessOpen = false ∧
      u.inputs = { t.inputs with sessions := as, turns := ts } ∧
      u.sensor = sensorAfter k t.rpe.addrR t.rpe.valR (sensorSettles t.cfg t.sensor t.clock.now)
        (t.clock.now + sessionMs a) a t.sensor := by
  obtain ⟨u, hu, h1, h2⟩ := step_two_of_session hk ho ht
  rw [reaches_succ h1, reaches_succ h2] at h
  obtain ⟨hsession, _⟩ := afterSession_cons hses
  obtain ⟨hrpe, hsensor, hinputs⟩ := sessionStep_of_ok k (s := u.setInputs { u.inputs with turns := ts })
    (by simp [hu]) (by simpa [hu] using hses) hok
  refine ⟨_, h, ?_, ?_, ?_, ?_⟩
  · rw [hrpe]; split <;> rfl
  · rw [hrpe]; split <;> rfl
  · rw [hinputs, hu]; simp
  · rw [hsensor, hu]; simp [State.early, hsession]

/-! ### An echoing sensor -/

/-- A `writeRegister` on an echoing sensor ends with the engine idle, the value in the register and every other register
as before (R48, R72). -/
theorem write_on_echo {burst : RegAddr → RegAddr} {s t w : State} {a : RegAddr} {v : Byte} {aw : Config.SessionAnswer}
    {as : List Config.SessionAnswer} {ts : List Config.Agent} (hp : s.rpe.phase = .idle) (ho : s.rpe.sessOpen = false)
    (hf : framable a = true) (hses : s.inputs.sessions = aw :: as) (hturns : s.inputs.turns = .rpe :: .rpe :: ts)
    (he : EchoAnswer burst .w a s.sensor aw) (ht : exec (.writeRegister a v) s = .next t) (hw : Reaches 2 t w) :
    w.rpe.phase = .idle ∧ w.rpe.sessOpen = false ∧ w.inputs = { s.inputs with sessions := as, turns := ts } ∧
      ∀ b, w.sensor.reg b = if b = a then v else s.sensor.reg b := by
  obtain ⟨hok, hlatched, hq, _, _⟩ := he
  obtain rfl := presentRpe_next hp ht
  obtain ⟨u, hu, hphase, hopen, hinputs, hsensor⟩ := reaches_session_of_ok (k := .w)
    (by simp [RpeOp.start]) (by simpa using ho) (by simpa using hses) (by simpa using hturns) hok hw
  rw [reaches_zero.1 hu]
  refine ⟨hphase, hopen, by simpa using hinputs, fun b => ?_⟩
  rw [hsensor, sensorAfter_reg_of_quiet hq]
  simp [writeTaken_of_latched hf hlatched]

/-- The pointer phase of a `readRegister` on an echoing sensor, the settling delay and the opening of the read phase: the
read pointer is at the address, and every register is as before (R46, R48, R80). -/
theorem pointer_on_echo {burst : RegAddr → RegAddr} {w r x : State} {a : RegAddr} {l : Byte} {ap : Config.SessionAnswer}
    {as : List Config.SessionAnswer} {ts : List Config.Agent} (hp : w.rpe.phase = .idle) (ho : w.rpe.sessOpen = false)
    (hf : framable a = true) (hses : w.inputs.sessions = ap :: as)
    (hturns : w.inputs.turns = .rpe :: .rpe :: .settleTimer :: .rpe :: ts)
    (he : EchoAnswer burst .p a w.sensor ap) (hr : exec (.readRegister a l) w = .next r) (hx : Reaches 4 r x) :
    x.rpe.phase = .rdDataSession ∧ x.rpe.sessOpen = true ∧ x.inputs.sessions = as ∧ x.inputs.turns = ts ∧
      x.sensor.readPtr = a ∧ ∀ b, x.sensor.reg b = w.sensor.reg b := by
  obtain ⟨hok, _, hq, hptr, _⟩ := he
  obtain rfl := presentRpe_next hp hr
  obtain ⟨u, hu, hphase, hopen, hinputs, hsensor⟩ := reaches_session_of_ok (k := .p)
    (by simp [RpeOp.start]) (by simpa using ho) (by simpa using hses) (by simpa using hturns) hok hx
  have hsettle : step u = .next (resumeSettle (u.setInputs { u.inputs with turns := .rpe :: ts })) :=
    step_settleTimer hphase (by simp [hinputs])
  rw [reaches_succ hsettle, reaches_succ (step_in_session (k := .d) (ts := ts) (by simp [afterDelay_lists]) (by simp)),
    reaches_zero, sessionStep_open (by simpa using hopen)] at hu
  rw [hu]
  refine ⟨by simp, by simp, by simp [afterDelay_lists, hinputs], by simp, ?_, fun b => ?_⟩
  · simpa [hsensor] using sensorAfter_readPtr_of_ok hf hok (.inr (hptr rfl)) ..
  · simp [hsensor, sensorAfter_reg_of_quiet hq]

/-- The read phase on an echoing sensor returns the register at the read pointer and the one that the BURST_RULE names
after it (R47, R48). -/
theorem data_on_echo {burst : RegAddr → RegAddr} {x z : State} {a : RegAddr} {ad : Config.SessionAnswer}
    {as : List Config.SessionAnswer} {ts : List Config.Agent} (hp : x.rpe.phase = .rdDataSession)
    (ho : x.rpe.sessOpen = true) (hses : x.inputs.sessions = ad :: as) (hturns : x.inputs.turns = .rpe :: ts)
    (he : EchoAnswer burst .d a x.sensor ad) (hz : Reaches 1 x z) :
    z.rpe.phase = .idle ∧ z.rpe.resCode = .ok ∧ z.readHi = .ok (x.sensor.reg x.sensor.readPtr) ∧
      z.readLo = .ok (x.sensor.reg (burst x.sensor.readPtr)) := by
  obtain ⟨hok, _, _, _, hbytes⟩ := he
  obtain ⟨hb0, hb1⟩ := hbytes rfl
  rw [reaches_succ (step_in_session (k := .d) hturns (by simp [hp])), reaches_zero] at hz
  obtain ⟨hrpe, _⟩ := sessionStep_of_ok .d (s := x.setInputs { x.inputs with turns := ts })
    (by simpa using ho) (by simpa using hses) hok
  rw [State.readHi_eq_ok, State.readLo_eq_ok, hz, hrpe]
  simp [hb0, hb1]

/-- Settles O21: the write leaves the value in the register, the pointer phase leaves it there and the read pointer at it,
and the read phase returns it, beside what the BURST_RULE's register then holds. -/
theorem roundTripOnAnEchoingSensor : Obligations.RoundTripOnAnEchoingSensor := by
  intro burst s t w r x z a v l aw ap ad as ts hinv hp hf hses hturns hew ht hw hep hr hx hed hz
  obtain ⟨hpw, how, hiw, hregw⟩ := write_on_echo hp (hinv.closed_in_idle hp) hf hses hturns hew ht hw
  obtain ⟨hpx, hox, hsx, htx, hptr, hregx⟩ :=
    pointer_on_echo hpw how hf (by rw [hiw]) (by rw [hiw]) hep hr hx
  obtain ⟨hpz, hcode, hhi, hlo⟩ := data_on_echo hpx hox hsx htx hed hz
  refine ⟨hpz, hcode, ?_, ?_⟩
  · rw [hhi, hptr, hregx, hregw, if_pos rfl]
  · rw [hlo, hptr, hregx, hregw]

end Sys2Proof.Machine
end

section
/-! Proofs of the encoding of commands (R50, R51, R58, R61 to R63): a CMD16 word is its three fields side by side, so
that its number is their sum, each field is taken out of it again, and every word is made of three fields. -/

namespace Sys2Proof.Machine

/-- Two fields side by side as a number. -/
theorem append_toNat_eq_add {m n : Nat} (x : BitVec m) (y : BitVec n) :
    (x ++ y).toNat = x.toNat * 2 ^ n + y.toNat := by
  rw [BitVec.toNat_append, ← Nat.shiftLeft_add_eq_or_of_lt y.isLt, Nat.shiftLeft_eq]

/-! ### CMD16 -/

/-- A CMD16 word is the operation, the address and the low byte side by side (R51). -/
theorem encodeCmd16_eq_append (op : BitVec 1) (a : RegAddr) (v : Byte) : encodeCmd16 op a v = op ++ a ++ v := by
  have h := BitVec.setWidth_append_append_eq_shiftLeft_setWidth_or (b := op) (b' := a) (b'' := v) (w''' := 16)
  rw [BitVec.setWidth_eq] at h
  exact h.symm

/-- The number of a CMD16 word, as the spec adds up its fields (R51). -/
theorem encodeCmd16_toNat (op : BitVec 1) (a : RegAddr) (v : Byte) :
    (encodeCmd16 op a v).toNat = 32768 * op.toNat + 256 * a.toNat + v.toNat := by
  rw [encodeCmd16_eq_append, append_toNat_eq_add, append_toNat_eq_add]
  omega

/-- Every CMD16 word has an operation, an address and a low byte (R51). -/
theorem exists_encodeCmd16 (w : Cmd16) : ∃ (op : RpeOp) (a : RegAddr) (v : Byte), encodeCmd16 op.code a v = w := by
  have hw : w.extractLsb' 15 1 ++ w.extractLsb' 8 7 ++ w.extractLsb' 0 8 = w := by
    rw [BitVec.extractLsb'_append_extractLsb'_eq_extractLsb' (show 15 = 8 + 7 from rfl),
      BitVec.extractLsb'_append_extractLsb'_eq_extractLsb' (show 8 = 0 + 8 from rfl)]
    exact BitVec.extractLsb'_eq_self
  obtain h | h := BitVec.eq_zero_or_eq_one (w.extractLsb' 15 1)
  · exact ⟨.write, _, _, by rw [encodeCmd16_eq_append, RpeOp.code, ← h, hw]⟩
  · exact ⟨.read, _, _, by rw [encodeCmd16_eq_append, RpeOp.code, ← h, hw]⟩

theorem encode_command (op : RpeOp) (a : RegAddr) (v : Byte) :
    encode (op.command a v) = .cmd16 (encodeCmd16 op.code a v) := by cases op <;> rfl

/-- Each field is taken out of the word as it was put in (R51). -/
theorem decodeCmd16_encodeCmd16 (op : RpeOp) (a : RegAddr) (v : Byte) :
    decodeCmd16 (encodeCmd16 op.code a v) = op.command a v := by
  have hv : (op.code ++ a ++ v).extractLsb' 0 8 = v := BitVec.extractLsb'_append_eq_right
  have ha : (op.code ++ a ++ v).extractLsb' 8 7 = a :=
    (BitVec.extractLsb'_append_eq_of_le (Nat.le_refl 8)).trans BitVec.extractLsb'_append_eq_right
  have hop : (op.code ++ a ++ v).getLsbD 15 = op.code.getLsbD 0 := by
    rw [BitVec.getLsbD_append, BitVec.getLsbD_append]; rfl
  rw [encodeCmd16_eq_append, decodeCmd16, hv, ha, hop]
  cases op <;> rfl

/-- A number below 2^16 is the word of its three fields (R51). -/
theorem ofNat_eq_encodeCmd16 {a v : Nat} (op : RpeOp) (ha : a < 128) (hv : v < 256) :
    BitVec.ofNat 16 (32768 * op.code.toNat + 256 * a + v) =
      encodeCmd16 op.code (BitVec.ofNat 7 a) (BitVec.ofNat 8 v) := by
  apply BitVec.eq_of_toNat_eq
  have hop := op.code.isLt
  rw [encodeCmd16_toNat, BitVec.toNat_ofNat, BitVec.toNat_ofNat, BitVec.toNat_ofNat, Nat.mod_eq_of_lt ha,
    Nat.mod_eq_of_lt hv, Nat.mod_eq_of_lt (by omega)]

/-! ### Every port -/

theorem decodeWord_encode (i : Instr) : decodeWord (encode i) = .ok i := by
  cases i with
  | writeRegister a v => exact congrArg Except.ok (decodeCmd16_encodeCmd16 .write a v)
  | readRegister a v => exact congrArg Except.ok (decodeCmd16_encodeCmd16 .read a v)
  | _ => rfl

/-- An LC2 word is `11`, which is reserved, or the word of a command (R61, R63). -/
theorem eq_three_or_exists_encode (w : LcWord) : w = 3#2 ∨ w ≠ 3#2 ∧ ∃ i, encode i = .lc2 w := by
  have hw : w = 0#2 ∨ w = 1#2 ∨ w = 2#2 ∨ w = 3#2 := by revert w; decide
  rcases hw with rfl | rfl | rfl | rfl
  · exact .inr ⟨by decide, .initializeSensor, rfl⟩
  · exact .inr ⟨by decide, .enableDataFeed, rfl⟩
  · exact .inr ⟨by decide, .clearStatusFlags, rfl⟩
  · exact .inl rfl

/-- The reserved word is the only one that is no command's (R50, R51, R58, R61 to R63). -/
theorem eq_lc2_three_or_exists_encode (w : PortWord) : w = .lc2 3#2 ∨ w ≠ .lc2 3#2 ∧ ∃ i, encode i = w := by
  cases w with
  | cmd16 w =>
    obtain ⟨op, a, v, rfl⟩ := exists_encodeCmd16 w
    exact .inr ⟨nofun, _, encode_command op a v⟩
  | pkt48 P => exact .inr ⟨nofun, .decode P, rfl⟩
  | pin1 d => exact .inr ⟨nofun, .isDataReady d, rfl⟩
  | lc2 w =>
    rw [ne_eq, PortWord.lc2.injEq]
    exact eq_three_or_exists_encode w

/-! ### The statements -/

/-- Settles O1: by command; the fields of a CMD16 word are taken out as they were put in. -/
theorem decodeOfEncodeIsIdentity : Obligations.DecodeOfEncodeIsIdentity := fun i _ => decodeWord_encode i

/-- Settles O2: a word that is not the reserved one is the word of some command, which decoding gives back; so it is the
word of no other. -/
theorem everyWordButLc2ReservedIsOneCommand : Obligations.EveryWordButLc2ReservedIsOneCommand := by
  intro w
  obtain rfl | ⟨hw, i, rfl⟩ := eq_lc2_three_or_exists_encode w
  · exact .inl ⟨rfl, rfl⟩
  · refine .inr ⟨hw, i, decodeWord_encode i, rfl, fun j hj => ?_⟩
    have h := decodeWord_encode j
    rw [hj, decodeWord_encode i] at h
    exact (Except.ok.inj h).symm

/-- Settles O3: the sum is the word of the command with these fields. -/
theorem cmd16FieldsAreWhereTheSpecPutsThem : Obligations.Cmd16FieldsAreWhereTheSpecPutsThem := by
  intro a v ha hv
  have hw := ofNat_eq_encodeCmd16 .write ha hv
  have hr := ofNat_eq_encodeCmd16 .read ha hv
  simp only [RpeOp.code, BitVec.toNat_ofNat, Nat.reducePow, Nat.reduceMod, Nat.mul_zero, Nat.zero_add, Nat.mul_one]
    at hw hr
  rw [hw, hr]
  exact ⟨decodeWord_encode (.writeRegister _ _), decodeWord_encode (.readRegister _ _)⟩

/-- Settles O4: each word is the word of the command named, which decoding gives back. -/
theorem specWordsDecode : Obligations.SpecWordsDecode := by
  have hP : packetOfBytes 0x81 0x5A 0xE8 0xBC 0x23 0x20 = 0x2023BCE85A81#48 := by decide
  rw [Obligations.SpecWordsDecode, hP]
  exact ⟨decodeWord_encode (.writeRegister 0x04#7 0x01#8), decodeWord_encode (.writeRegister 0x7F#7 0xFF#8),
    decodeWord_encode (.readRegister 0x12#7 0xAB#8), rfl, rfl, rfl, rfl, rfl⟩

end Sys2Proof.Machine
end

section
/-! Proofs of the bytes on the bus and of the addresses (R52 to R54, R64, R69): each byte as its fields side by side, and
as the number that they add up to. -/

namespace Sys2Proof.Machine

/-! ### The bytes as fields and as numbers -/

/-- The write pointer byte: 1 and the seven address bits (R53). -/
theorem ptrW_eq_append (a : RegAddr) : ptrW a = 1#1 ++ a := by
  have h := BitVec.setWidth_append_eq_shiftLeft_setWidth_or (b := 1#1) (b' := a) (w'' := 8)
  rw [BitVec.setWidth_eq] at h
  exact h.symm

theorem one_or_bit (b : BitVec 1) : 1#1 ||| b = 1#1 := BitVec.allOnes_or (x := b)

/-- An address as a byte, in the fields that the read mask tells apart. -/
theorem setWidth_eq_fields (a : RegAddr) :
    a.setWidth 8 = 0#1 ++ a.extractLsb' 6 1 ++ a.extractLsb' 5 1 ++ a.extractLsb' 0 5 := by
  have hf : (a.setWidth 8).extractLsb' 7 1 ++ (a.setWidth 8).extractLsb' 6 1 ++ (a.setWidth 8).extractLsb' 5 1 ++
      (a.setWidth 8).extractLsb' 0 5 = a.setWidth 8 := by
    rw [BitVec.extractLsb'_append_extractLsb'_eq_extractLsb' (show 7 = 6 + 1 from rfl),
      BitVec.extractLsb'_append_extractLsb'_eq_extractLsb' (show 6 = 5 + 1 from rfl),
      BitVec.extractLsb'_append_extractLsb'_eq_extractLsb' (show 5 = 0 + 5 from rfl)]
    exact BitVec.extractLsb'_eq_self
  have h7 : (a.setWidth 8).extractLsb' 7 1 = 0#1 := by ext i hi; simp [show i = 0 by omega]
  rw [← hf, h7, BitVec.extractLsb'_setWidth_of_le (by decide), BitVec.extractLsb'_setWidth_of_le (by decide),
    BitVec.extractLsb'_setWidth_of_le (by decide)]

/-- The read pointer byte: 1, address bit 6, 1, address bits 4:0; bit 5 is absorbed (R53). -/
theorem ptrR_eq_append (a : RegAddr) :
    ptrR a = 1#1 ++ a.extractLsb' 6 1 ++ 1#1 ++ a.extractLsb' 0 5 := by
  have hm : doc.readMask = 1#1 ++ 0#1 ++ 1#1 ++ 0#5 := rfl
  rw [ptrR, hm, setWidth_eq_fields, BitVec.or_append, BitVec.or_append, BitVec.or_append, one_or_bit, one_or_bit,
    BitVec.zero_or, BitVec.zero_or]

theorem ptrW_toNat (a : RegAddr) : (ptrW a).toNat = 0x80 + a.toNat := by
  rw [ptrW_eq_append, append_toNat_eq_add]
  rfl

/-- The number of the read pointer byte: bit 5 of the address, absorbed, adds nothing (R53, R69). -/
theorem ptrR_toNat (a : RegAddr) : (ptrR a).toNat = 0xA0 + 0x40 * (a.toNat / 0x40) + a.toNat % 0x20 := by
  have ha := a.isLt
  simp only [ptrR_eq_append, append_toNat_eq_add, BitVec.extractLsb'_toNat, BitVec.toNat_ofNat,
    Nat.shiftRight_eq_div_pow]
  omega

theorem slaByte_toNat (p : Config.Params) (rw : BitVec 1) :
    (slaByte p rw).toNat = 2 * p.slaveAddr.toNat + rw.toNat := by
  rw [slaByte, append_toNat_eq_add, Nat.mul_comm]
  rfl

/-- The framable addresses are the lowest 32 (R54). -/
theorem framable_iff {a : RegAddr} : framable a = true ↔ a.toNat ≤ 0x1F := by
  have ha : a.extractLsb' 5 2 ++ a.extractLsb' 0 5 = a := BitVec.extractLsb'_append_extractLsb'
  have hm : a &&& 0x60#7 = a.extractLsb' 5 2 ++ 0#5 := by
    have h : (0x60#7) = BitVec.allOnes 2 ++ 0#5 := rfl
    conv_lhs => rw [h, ← ha, BitVec.and_append, BitVec.and_allOnes, BitVec.and_zero]
  have hz : a.extractLsb' 5 2 ++ 0#5 = 0#7 ↔ a.extractLsb' 5 2 = 0#2 := BitVec.append_left_inj (s₂ := 0#2) 0#5
  have hlt := a.isLt
  rw [framable, decide_eq_true_iff, hm, hz, ← BitVec.toNat_inj, BitVec.extractLsb'_toNat, Nat.shiftRight_eq_div_pow,
    BitVec.toNat_ofNat]
  omega

/-! ### Direction and register in a pointer byte -/

/-- Bits 7:5 of a byte as a number. -/
theorem extractLsb'_5_3_eq_iff {b : Byte} {n : BitVec 3} : b.extractLsb' 5 3 = n ↔ b.toNat / 32 = n.toNat := by
  have hb := b.isLt
  rw [← BitVec.toNat_inj, BitVec.extractLsb'_toNat, Nat.shiftRight_eq_div_pow]
  omega

/-- Bits 7:5 of the write pointer byte tell a write exactly at a framable address (R54). -/
theorem ptrW_direction_iff {a : RegAddr} : (ptrW a).extractLsb' 5 3 = 0b100#3 ↔ framable a = true := by
  rw [extractLsb'_5_3_eq_iff, ptrW_toNat, framable_iff, BitVec.toNat_ofNat]
  omega

theorem ptrR_direction_of_framable {a : RegAddr} (h : framable a = true) :
    (ptrR a).extractLsb' 5 3 = 0b101#3 := by
  rw [framable_iff] at h
  rw [extractLsb'_5_3_eq_iff, ptrR_toNat, BitVec.toNat_ofNat]
  omega

/-- Bits 4:0 of the pointer bytes are the address's (R54). -/
theorem ptrW_register (a : RegAddr) : (ptrW a).extractLsb' 0 5 = a.extractLsb' 0 5 := by
  rw [ptrW_eq_append, BitVec.extractLsb'_append_eq_of_add_le (by decide)]

theorem ptrR_register (a : RegAddr) : (ptrR a).extractLsb' 0 5 = a.extractLsb' 0 5 := by
  rw [ptrR_eq_append]
  exact BitVec.extractLsb'_append_eq_right

/-- The write mask is disjoint from every address, since it holds bit 7 alone. -/
theorem writeMask_disjoint (a : RegAddr) : 0x80#8 &&& a.setWidth 8 = 0#8 := by
  have hm : 0x80#8 = 1#1 ++ 0#7 := rfl
  have ha : a.setWidth 8 = 0#1 ++ a := by
    have hlt := a.isLt
    apply BitVec.eq_of_toNat_eq
    rw [append_toNat_eq_add, BitVec.toNat_setWidth, BitVec.toNat_ofNat]
    omega
  rw [hm, ha, BitVec.and_append, BitVec.and_zero, BitVec.zero_and]
  rfl

/-- The read mask is disjoint from every framable address, since it holds no bit below bit 5 (R54). -/
theorem readMask_disjoint {a : RegAddr} (h : framable a = true) : 0xA0#8 &&& a.setWidth 8 = 0#8 := by
  have hm : 0xA0#8 = 0b101#3 ++ 0#5 := rfl
  have ha : a.setWidth 8 = 0#3 ++ a.extractLsb' 0 5 := by
    rw [framable_iff] at h
    apply BitVec.eq_of_toNat_eq
    rw [append_toNat_eq_add, BitVec.toNat_setWidth, BitVec.extractLsb'_toNat, BitVec.toNat_ofNat, Nat.shiftRight_zero]
    omega
  rw [hm, ha, BitVec.and_append, BitVec.and_zero, BitVec.zero_and]
  rfl

/-! ### Aliasing addresses -/

/-- An aliasing address is refused by an idle engine when STRICT_ADDR is true (R64, R148). -/
theorem presentRpe_aliasing {s : State} {a : RegAddr} (hp : s.rpe.phase = .idle) (hs : s.cfg.strictAddr = true)
    (ha : framable a = false) (op : RpeOp) (v : Byte) : presentRpe op a v s = .refused .aliasingAddress := by
  simp [presentRpe, State.busy_eq_false.2 hp, hs, ha]

/-- An accepted command of either operation starts its first session (R14, R64). -/
theorem exec_rpe_accepted {s : State} {a : RegAddr} (hp : s.rpe.phase = .idle)
    (ha : s.cfg.strictAddr = false ∨ framable a = true) (v : Byte) :
    (∃ t, exec (.writeRegister a v) s = .next t ∧ t.rpe.phase = .wrSession) ∧
    (∃ t, exec (.readRegister a v) s = .next t ∧ t.rpe.phase = .rdPtrSession) :=
  ⟨⟨_, presentRpe_idle hp ha .write v, by rw [acceptRpe_rpe]; rfl⟩,
   ⟨_, presentRpe_idle hp ha .read v, by rw [acceptRpe_rpe]; rfl⟩⟩

/-- Two addresses with one read pointer byte: they differ in bit 5 alone (R69). -/
theorem ptrR_sub_0x20 {a : RegAddr} (h : 0x20 ≤ a.toNat % 0x40) : ptrR a = ptrR (a - 0x20#7) := by
  have ha := a.isLt
  apply BitVec.eq_of_toNat_eq
  rw [ptrR_toNat, ptrR_toNat, BitVec.toNat_sub, BitVec.toNat_ofNat]
  omega

/-! ### The statements -/

/-- Settles O5: the masks are the stated numbers, and the bytes are their fields side by side. -/
theorem pointerBytesBitByBit : Obligations.PointerBytesBitByBit := fun a =>
  ⟨rfl, ptrW_eq_append a, rfl, ptrR_eq_append a⟩

/-- Settles O6: framable addresses are those up to 0x1F; a write pointer byte whose bits 7:5 are 100 has one. -/
theorem framableAddressesKeepDirectionAndRegister : Obligations.FramableAddressesKeepDirectionAndRegister := by
  refine ⟨fun a => ⟨decide_eq_true_iff, framable_iff, ⟨fun h => ?_, fun ⟨_, _, hw, _⟩ => ptrW_direction_iff.1 hw⟩,
    fun h => ?_⟩, by decide, by decide, by decide⟩
  · exact ⟨writeMask_disjoint a, readMask_disjoint h, ptrW_direction_iff.2 h, ptrR_direction_of_framable h⟩
  · rw [framable_iff] at h
    rw [ptrW_toNat, ptrR_toNat]
    exact ⟨ptrW_register a, ptrR_register a, by omega, by omega, by omega, by omega⟩

/-- Settles O7: the numbers of the two bytes in each range, and the collisions where bit 5 of the address is set. -/
theorem pointerByteTable : Obligations.PointerByteTable := by
  intro a
  have ha := a.isLt
  rw [ptrW_toNat, ptrR_toNat]
  exact ⟨by omega, fun _ _ => ⟨rfl, by omega, ptrR_sub_0x20 (by omega)⟩, by omega,
    fun _ => ⟨rfl, by omega, ptrR_sub_0x20 (by omega)⟩⟩

/-- Settles O8: the byte is the address and the intent bit side by side. -/
theorem slaveAddressByte : Obligations.SlaveAddressByte := fun p rw => ⟨slaByte_toNat p rw, rfl, rfl⟩

/-- Settles O12: an address is aliasing from 0x20 on; an idle engine refuses those under STRICT_ADDR alone. -/
theorem strictAddrRefusesAliasingOnly : Obligations.StrictAddrRefusesAliasingOnly := by
  intro s a v hp
  refine ⟨fun hs ha => ?_, fun _ ha => exec_rpe_accepted hp (.inr (framable_iff.2 ha)) v,
    fun hs => exec_rpe_accepted hp (.inl hs) v⟩
  have hf : framable a = false := by rw [Bool.eq_false_iff, ne_eq, framable_iff]; omega
  exact ⟨presentRpe_aliasing hp hs hf .write v, presentRpe_aliasing hp hs hf .read v⟩

end Sys2Proof.Machine
end

section
/-! The bus protocol (R57, R71, R82, R83, R88, R135): what the automaton reads of the events that each move of the
machine adds to the trace, and that it then stands where the engine does. -/

namespace Sys2Proof.Machine

/-! ### The automaton -/

theorem Monitor.run_cons (p : Config.Params) (m : Monitor) (e : Event) (es : List Event) :
    Monitor.run p m (e :: es) = (m.next p e).bind (Monitor.run p · es) := by
  cases h : m.next p e <;> simp [Monitor.run, h]

theorem Monitor.run_append (p : Config.Params) (m : Monitor) (es fs : List Event) :
    Monitor.run p m (es ++ fs) = (Monitor.run p m es).bind (Monitor.run p · fs) := by
  induction es generalizing m with
  | nil => rfl
  | cons e es ih => rw [List.cons_append, run_cons, run_cons, Option.bind_assoc]; simp only [ih]

/-- Events of other units leave the automaton where it is. -/
theorem Monitor.run_foreign (p : Config.Params) (m : Monitor) {es : List Event}
    (h : ∀ e ∈ es, foreignEvent e = true) : Monitor.run p m es = some m := by
  induction es with
  | nil => rfl
  | cons e es ih =>
    obtain ⟨he, hes⟩ := List.forall_mem_cons.1 h
    have hr : e ≠ .blockReset := by rintro rfl; cases he
    simp [run_cons, Monitor.next, hr, he, ih hes]

/-- An event of the engine, or a configuration call, is read by the protocol's own rule. -/
theorem Monitor.next_own {p : Config.Params} {m m' : Monitor} {e : Event}
    (he : e ≠ .blockReset ∧ foreignEvent e = false) (h : m.ownEvent p e = some m') : m.next p e = some m' := by
  simp [Monitor.next, he, h]

theorem Monitor.run_own {p : Config.Params} {m m' : Monitor} {e : Event}
    (he : e ≠ .blockReset ∧ foreignEvent e = false) (h : m.ownEvent p e = some m') : Monitor.run p m [e] = some m' := by
  simp [run, next_own he h]

/-- The calls that are to follow before `BP.execute` are read one by one (R57). -/
theorem Monitor.run_calls (p : Config.Params) (k : FrameKind) (a : RegAddr) (v : Byte) {es : List Event}
    (h : ∀ e ∈ es, e ≠ .blockReset ∧ foreignEvent e = false) :
    Monitor.run p (.calls k a v es) es = some (.calls k a v []) := by
  induction es with
  | nil => rfl
  | cons e es ih =>
    obtain ⟨he, hes⟩ := List.forall_mem_cons.1 h
    have hn : Monitor.next p (.calls k a v (e :: es)) e = some (.calls k a v es) :=
      next_own he (by simp [ownEvent])
    rw [run_cons, hn, Option.bind_some, ih hes]

/-- The calls of a session begin with `BP.open`, and all of them are the engine's own (R57). -/
theorem frameCalls_eq (p : Config.Params) (k : FrameKind) (a : RegAddr) (v : Byte) :
    ∃ es, frameCalls p k a v = .bpOpen :: es ∧ ∀ e ∈ es, e ≠ .blockReset ∧ foreignEvent e = false := by
  cases k <;> exact ⟨_, rfl, by simp [foreignEvent]⟩

theorem Monitor.run_frameCalls (p : Config.Params) (k : FrameKind) (a : RegAddr) (v : Byte) :
    Monitor.run p (.toOpen k a v) (frameCalls p k a v) = some (.calls k a v []) := by
  obtain ⟨es, he, hes⟩ := frameCalls_eq p k a v
  have ho : Monitor.next p (.toOpen k a v) .bpOpen = some (.calls k a v es) :=
    next_own ⟨nofun, rfl⟩ (by rw [ownEvent, he, List.tail_cons])
  rw [he, run_cons, ho, Option.bind_some, run_calls p k a v hes]

theorem resultFits_sessionResult (k : FrameKind) (x : Config.SessionAnswer) :
    resultFits k (sessionResult k x) = true := by
  unfold sessionResult
  cases x.outcome <;> cases k <;> rfl

/-- A session is executed with its one deadline, whatever the oracle answers, and closed (R57). -/
theorem Monitor.run_execute (p : Config.Params) (k : FrameKind) (a : RegAddr) (v : Byte) (x : Config.SessionAnswer) :
    Monitor.run p (.calls k a v []) [.bpExecute doc.tDeadlineMs (sessionResult k x), .bpClose] =
      some (.closed k a v (sessionResult k x)) := by
  have hx : Monitor.next p (.calls k a v []) (.bpExecute doc.tDeadlineMs (sessionResult k x)) =
      some (.toClose k a v (sessionResult k x)) :=
    next_own ⟨nofun, rfl⟩ (if_pos ⟨rfl, resultFits_sessionResult k x⟩)
  rw [run_cons, hx, Option.bind_some]
  exact run_own ⟨nofun, rfl⟩ rfl

/-- The result of a command follows its last session and ends the transaction; what other units do then does not concern
the protocol (R59, R135). -/
theorem Monitor.run_result (p : Config.Params) {k : FrameKind} {a : RegAddr} {v : Byte} {r : SessionResult}
    {x : CmdResult} {es : List Event} (h : resultAfter k r = some x) (hes : ∀ e ∈ es, foreignEvent e = true) :
    Monitor.run p (.closed k a v r) (.result .rpe x :: es) = some .idle := by
  have hn : Monitor.next p (.closed k a v r) (.result .rpe x) = some .idle :=
    next_own ⟨nofun, rfl⟩ (by simp [ownEvent, h])
  rw [run_cons, hn, Option.bind_some, run_foreign p _ hes]

/-! ### Where the automaton must stand -/

theorem Rpe.monitor_idle {r : Rpe} (h : r.phase = .idle) : r.monitor = .idle := by rw [Rpe.monitor, h]

theorem Rpe.monitor_settle {r : Rpe} (h : r.phase = .rdSettle) : r.monitor = .settling r.addrR r.valR := by
  rw [Rpe.monitor, h]

/-- In a session phase it stands before the session's opening or before its execution. -/
theorem Rpe.monitor_of_frame {r : Rpe} {k : FrameKind} (hk : r.phase.frame = some k) :
    r.monitor = if r.sessOpen then .calls k r.addrR r.valR [] else .toOpen k r.addrR r.valR := by
  cases k with
  | w => rw [Rpe.monitor, Phase.frame_eq_w.1 hk]
  | p => rw [Rpe.monitor, Phase.frame_eq_p.1 hk]
  | d => rw [Rpe.monitor, Phase.frame_eq_d.1 hk]

theorem Rpe.monitor_unopened {r : Rpe} {k : FrameKind} (hk : r.phase.frame = some k) (ho : r.sessOpen = false) :
    r.monitor = .toOpen k r.addrR r.valR := by
  simp [Rpe.monitor_of_frame hk, ho]

theorem Rpe.monitor_open {r : Rpe} {k : FrameKind} (hk : r.phase.frame = some k) (ho : r.sessOpen = true) :
    r.monitor = .calls k r.addrR r.valR [] := by
  simp [Rpe.monitor_of_frame hk, ho]

/-- From `s` to `s'` events are added to the trace that bring the automaton from `m` to where the engine then stands. -/
def Follows (m : Monitor) (s s' : State) : Prop :=
  ∃ es, s'.trace = s.trace ++ es ∧ Monitor.run s.cfg m es = some s'.rpe.monitor

/-- Such events after a trace that conforms. -/
theorem State.Conforms.of_follows {s s' : State} (h : s.Conforms) (hc : s'.cfg = s.cfg)
    (hf : Follows s.rpe.monitor s s') : s'.Conforms := by
  obtain ⟨es, ht, hr⟩ := hf
  rw [State.Conforms, hc, ht, Monitor.run_append, h, Option.bind_some, hr]

/-- Events of other units, the engine standing where it stood. -/
theorem Follows.of_foreign {s s' : State} {es : List Event} (ht : s'.trace = s.trace ++ es)
    (hes : ∀ e ∈ es, foreignEvent e = true) (hm : s'.rpe.monitor = s.rpe.monitor) : Follows s.rpe.monitor s s' :=
  ⟨es, ht, by rw [Monitor.run_foreign _ _ hes, hm]⟩

/-! ### Acceptance -/

/-- An idle engine accepts a command, whoever issued it. -/
theorem acceptRpe_follows {s : State} (h : s.Inv) (hp : s.rpe.phase = .idle) (op : RpeOp) (a : RegAddr) (v : Byte) :
    Follows s.rpe.monitor s (acceptRpe op a v s) := by
  have ho := h.closed_in_idle hp
  refine ⟨_, acceptRpe_trace op a v s, ?_⟩
  rw [Rpe.monitor_idle hp]
  cases op with
  | write =>
    have hm : (acceptRpe .write a v s).rpe.monitor = .toOpen .w a v := Rpe.monitor_unopened rfl ho
    rw [hm]
    exact Monitor.run_own ⟨nofun, rfl⟩ rfl
  | read =>
    have hm : (acceptRpe .read a v s).rpe.monitor = .toOpen .p a v := Rpe.monitor_unopened rfl ho
    rw [hm]
    exact Monitor.run_own ⟨nofun, rfl⟩ rfl

/-! ### A session -/

/-- What goes back to the caller adds events of the SLC alone. -/
theorem returnToCaller_trace (s : State) :
    ∃ es, (returnToCaller s).trace = s.trace ++ es ∧ ∀ e ∈ es, foreignEvent e = true := by
  rcases returnToCaller_cases s with ⟨_, h⟩ | ⟨op, _, _, h⟩ | ⟨op, e, _, _, h⟩ <;> rw [h]
  · exact ⟨[], by simp⟩
  · cases op <;> exact ⟨_, rfl, by simp [foreignEvent]⟩
  · exact ⟨_, raiseError_trace _ _ _, by simp [foreignEvent]⟩

/-- A command completes `Ok` with the result that its last session stands for. -/
theorem completeOk_follows {k : FrameKind} {r : SessionResult} {b : Option (Byte × Byte)}
    (h : resultAfter k r = some (okResult b)) (a : RegAddr) (v : Byte) (s : State) :
    Follows (.closed k a v r) s (completeOk b s) := by
  obtain ⟨es, ht, hes⟩ := returnToCaller_trace ((s.setRpe { s.rpe with
    phase := .idle, resValid := true, resCode := .ok,
    hiR := b.map (·.1), loR := b.map (·.2) }).emit [.result .rpe (okResult b)])
  refine ⟨.result .rpe (okResult b) :: es, by rw [completeOk, ht]; simp, ?_⟩
  rw [Monitor.run_result _ h hes, Rpe.monitor_idle (by simp)]

/-- A command completes with the error of its last session (R135). -/
theorem completeErr_follows {k : FrameKind} {r : SessionResult} {e : ErrorKind}
    (h : resultAfter k r = some (.err e)) (a : RegAddr) (v : Byte) (s : State) :
    Follows (.closed k a v r) s (completeErr e s) := by
  obtain ⟨es, ht, hes⟩ := returnToCaller_trace (raiseError .rpe e s)
  refine ⟨.result .rpe (.err e) :: es, by rw [completeErr, ht]; simp, ?_⟩
  rw [Monitor.run_result _ h hes, Rpe.monitor_idle (by simp)]

/-- The settling delay follows a pointer session that returned `Ok` (R83). -/
theorem beginSettle_follows (s : State) :
    Follows (.closed .p s.rpe.addrR s.rpe.valR .ok) s (beginSettle s) := by
  have hm : (beginSettle s).rpe.monitor = .settling s.rpe.addrR s.rpe.valR := Rpe.monitor_settle rfl
  refine ⟨_, beginSettle_trace s, ?_⟩
  rw [hm]
  exact Monitor.run_own ⟨nofun, rfl⟩ rfl

/-- An open session is executed and closed, and then what follows it. -/
theorem Follows.of_closed {s s' : State} {k : FrameKind} (hk : s.rpe.phase.frame = some k) (ho : s.rpe.sessOpen = true)
    (h : Follows (.closed k s.rpe.addrR s.rpe.valR (sessionResult k s.session)) (closeSession k s) s') :
    Follows s.rpe.monitor s s' := by
  obtain ⟨es, ht, hr⟩ := h
  refine ⟨_, by rw [ht, closeSession_trace, List.append_assoc], ?_⟩
  rw [Rpe.monitor_open hk ho, Monitor.run_append, Monitor.run_execute, Option.bind_some, ← hr, closeSession_cfg]

theorem sessionStep_follows {s : State} {k : FrameKind} (hk : s.rpe.phase.frame = some k) :
    Follows s.rpe.monitor s (sessionStep k s) := by
  rcases sessionStep_cases k s with ⟨ho, e⟩ | ⟨ho, ha, rfl, e⟩ | ⟨ho, ha, rfl, e⟩ | ⟨ho, ha, rfl, e⟩ | ⟨ho, ha, e⟩ |
    ⟨ho, ha, e⟩ <;> rw [e]
  · refine ⟨_, openSession_trace k s, ?_⟩
    rw [Rpe.monitor_unopened hk ho, Monitor.run_frameCalls,
      Rpe.monitor_open (k := k) (by simpa using hk) (by simp), openSession_rpe]
  · exact .of_closed hk ho (completeOk_follows (by simp [sessionResult, ha, resultAfter, okResult]) _ _ _)
  · exact .of_closed hk ho (by simpa [sessionResult, ha] using beginSettle_follows (closeSession .p s))
  · exact .of_closed hk ho (completeOk_follows (by simp [sessionResult, ha, resultAfter, okResult]) _ _ _)
  · exact .of_closed hk ho (completeErr_follows (by simp [sessionResult, ha, resultAfter]) _ _ _)
  · exact .of_closed hk ho (completeErr_follows (by simp [sessionResult, ha, resultAfter]) _ _ _)

/-! ### The other moves -/

theorem resumeSettle_follows {s : State} (h : s.Inv) (hp : s.rpe.phase = .rdSettle) :
    Follows s.rpe.monitor s (resumeSettle s) := by
  obtain ⟨hr, _⟩ := State.inv_iff.1 h
  have ho := hr.closed_of_no_session (by simp [hp, Phase.frame])
  have hm : (resumeSettle s).rpe.monitor = .toOpen .d s.rpe.addrR s.rpe.valR := by
    simpa using Rpe.monitor_unopened (r := (resumeSettle s).rpe) (k := .d) (by simp) (by simpa using ho)
  refine ⟨_, resumeSettle_trace s, ?_⟩
  rw [Rpe.monitor_settle hp, hm]
  exact Monitor.run_own ⟨nofun, rfl⟩ rfl

/-- The end of the configuration adds its two calls and the result of the SLC (R116). -/
theorem configure_trace (s : State) :
    ∃ r, (configure s).trace = s.trace ++ (configCalls s.cfg s.config ++ [.result .slc r]) := by
  simp only [configure, configDone]
  split
  · exact ⟨.ok, by simp⟩
  · exact ⟨.err .config, by simp⟩

/-- The configuration calls are made while no transaction is in flight (R57, R83). -/
theorem configure_follows {s : State} (hp : s.rpe.phase = .idle) : Follows s.rpe.monitor s (configure s) := by
  obtain ⟨r, ht⟩ := configure_trace s
  refine ⟨_, ht, ?_⟩
  rw [Rpe.monitor_idle hp, Rpe.monitor_idle (by simpa using hp)]
  simp [configCalls, Monitor.run, Monitor.next, Monitor.ownEvent, foreignEvent]

/-- A reset brings the automaton back to its start (R150). -/
theorem blockReset_follows (s : State) : Follows s.rpe.monitor s (blockReset s) := by
  refine ⟨_, blockReset_trace s, ?_⟩
  rw [blockReset_rpe]
  rfl

theorem foreignEvent_of_hostEvent {e : Event} (h : hostEvent e = true) : foreignEvent e = true := by
  cases e with
  | pinRead _ _ => rfl
  | result u _ => simp [foreignEvent, show u = .trd by simpa [hostEvent] using h]
  | tpSuspend u _ => simp [foreignEvent, show u = .host by simpa [hostEvent] using h]
  | tpResume u => simp [foreignEvent, show u = .host by simpa [hostEvent] using h]
  | _ => cases h

theorem foreignEvent_accept_slc (op : SlcOp) : foreignEvent (.accept op.command) = true := by cases op <;> rfl

/-- Every move adds events to the trace that bring the automaton to where the engine then stands. -/
theorem StepEffect.follows {who : Config.Agent} {s s' : State} (he : StepEffect who s s') (h : s.Inv) :
    Follows s.rpe.monitor s s' := by
  cases he with
  | stay => exact .of_foreign (es := []) (by simp) (by simp) rfl
  | accept op a v ws _ hp => exact acceptRpe_follows (h.setPorts { s.ports with rpe := ws }) hp op a v
  | session k _ hk => exact sessionStep_follows hk
  | slcIssue op _ _ _ hp =>
    obtain ⟨es, ht, hr⟩ := acceptRpe_follows h hp .write (slcWrite op).1 (slcWrite op).2
    exact ⟨es, ht, by rw [hr, slcIssue_rpe]⟩
  | slcStart op ws => exact .of_foreign (slcStart_trace op _) (by simp [foreignEvent_accept_slc]) (by simp)
  | configureStart ws => exact .of_foreign (configureStart_trace _) (by simp [foreignEvent]) (by simp)
  | configure _ _ _ hp => exact configure_follows hp
  | resumeSettle _ hp => exact resumeSettle_follows h hp
  | resumePostClear => exact .of_foreign (resumePostClear_trace s) (by simp [foreignEvent]) (by simp)
  | host _ _ he =>
    obtain ⟨es, ht, hes⟩ := he.trace
    exact .of_foreign ht (fun e hm => foreignEvent_of_hostEvent (hes e hm)) (by rw [he.rpe])
  | reset => exact blockReset_follows s

/-- Settles O37: taking the turn adds nothing to the trace, and each move adds what the automaton then accepts. -/
theorem stepKeepsTheBusProtocol : Obligations.StepKeepsTheBusProtocol := by
  intro s s' hinv hc hs
  have he := step_effect hs
  have hc' : s.afterTurn.Conforms := by simpa [State.Conforms] using hc
  obtain ⟨hcfg, _⟩ := he.cfg_time
  exact hc'.of_follows hcfg (he.follows hinv.afterTurn)

end Sys2Proof.Machine
end

section
/-! Proofs of the host: the result it takes, its own suspension, and what the pseudo-instructions stand for (R66, R67,
R112, R135, R160). -/

namespace Sys2Proof.Machine

/-! ### The first result of a unit -/

@[simp] theorem resultOf_cons_same (u : BlockUnit) (r : CmdResult) (es : List Event) :
    resultOf u (.result u r :: es) = some r := if_pos rfl

theorem resultOf_cons_other {u : BlockUnit} {e : Event} (h : ∀ r, e ≠ .result u r) (es : List Event) :
    resultOf u (e :: es) = resultOf u es := by
  cases e with
  | result v r => exact if_neg fun hv => h r (by rw [hv])
  | _ => rfl

/-- Events before the first result do not matter. -/
theorem resultOf_append {u : BlockUnit} {es : List Event} (h : ∀ r, Event.result u r ∉ es) (fs : List Event) :
    resultOf u (es ++ fs) = resultOf u fs := by
  induction es with
  | nil => rfl
  | cons e es ih =>
    have he : ∀ r, e ≠ .result u r := fun r hr => h r (by simp [hr])
    rw [List.cons_append, resultOf_cons_other he, ih fun r hm => h r (List.mem_cons_of_mem e hm)]

theorem resultOf_eq_none {u : BlockUnit} {es : List Event} (h : ∀ r, Event.result u r ∉ es) : resultOf u es = none := by
  simpa [resultOf] using resultOf_append h []

/-- An error ends the host's program with it (R66, R135). -/
theorem hostTake_err (e : ErrorKind) (h : HostFlow) :
    hostTake (.err e) h = { program := [], wait := .ready, failed := some e, last := some (.err e) } := rfl

theorem hostTake_of_ne_err {r : CmdResult} (hr : ∀ e, r ≠ .err e) (h : HostFlow) :
    hostTake r h = { h with wait := .ready, last := some r } := by
  cases r with
  | err e => exact absurd rfl (hr e)
  | _ => rfl

/-! ### The host's turns while it waits -/

/-- The result that the host awaits is not there yet: it waits on. -/
theorem step_host_no_result {s : State} {u : BlockUnit} {n : Nat} (ht : s.turn = .host) (hw : s.host.wait = .result u n)
    (hr : resultOf u (s.trace.drop n) = none) : step s = .next s.afterTurn := by
  simp [step_of_turn s ht, takeTurn, hostTurn, hw, hr]

/-- The result that the host awaits is there: it takes it. -/
theorem step_host_result {s : State} {u : BlockUnit} {n : Nat} {r : CmdResult} (ht : s.turn = .host)
    (hw : s.host.wait = .result u n) (hr : resultOf u (s.trace.drop n) = some r) :
    step s = .next (s.afterTurn.setHost (hostTake r s.host)) := by
  simp [step_of_turn s ht, takeTurn, hostTurn, hw, hr]

/-- While the host's suspension is pending the host does nothing in its turn. -/
theorem step_host_suspended {s : State} {since n : Nat} (ht : s.turn = .host) (hw : s.host.wait = .timer since n) :
    step s = .next s.afterTurn := by
  simp [step_of_turn s ht, takeTurn, hostTurn, hw]

/-! ### The end of the host's suspension -/

theorem hostTimerTurn_of_mayReach {s : State} {since n : Nat} (hw : s.host.wait = .timer since n)
    (h : s.mayReach (s.hostTimerEnd since n) = true) :
    hostTimerTurn s = ((s.afterDelay.setHost { s.host with wait := .ready }).setClock
      { s.clock with now := s.hostTimerEnd since n }).emit [.tpResume .host] := by
  simp [hostTimerTurn, hw, h]

theorem hostTimerTurn_of_not_mayReach {s : State} {since n : Nat} (hw : s.host.wait = .timer since n)
    (h : s.mayReach (s.hostTimerEnd since n) = false) : hostTimerTurn s = s := by
  simp [hostTimerTurn, hw, h]

/-- A suspension ends no earlier than asked for (R160). -/
theorem add_le_resumeTime (p : Config.Params) (now since units extra : Nat) :
    since + units * p.tUnitMs ≤ resumeTime p now since units extra :=
  Nat.le_trans (Nat.le_max_right _ _) (Nat.le_add_right _ _)

/-! ### The pseudo-instructions -/

theorem addrExpr_wf_iff {p : Config.Params} {a : AddrExpr} : a.wf p = true ↔ a.value p < 2 ^ doc.addrW :=
  decide_eq_true_iff

/-- The address of a well-formed expression is the number it stands for (R66). -/
theorem addrOf_toNat {p : Config.Params} {a : AddrExpr} (h : a.wf p = true) : (addrOf p a).toNat = a.value p :=
  Nat.mod_eq_of_lt (addrExpr_wf_iff.1 h)

theorem pktBase_wf_of_le {p : Config.Params} {m n : Nat} (h : (AddrExpr.pktBase n).wf p = true) (hm : m ≤ n) :
    (AddrExpr.pktBase m).wf p = true :=
  addrExpr_wf_iff.2 (Nat.lt_of_le_of_lt (Nat.add_le_add_left hm _) (addrExpr_wf_iff.1 h))

/-- A packet of six bytes is fetched by three reads (R67, R112). -/
theorem readCount_of_six {p : Config.Params} (h : p.pktLen = 6) : readCount p = 3 := by rw [readCount, h]; rfl

theorem readPacket_of_six {p : Config.Params} (h : p.pktLen = 6) :
    readPacket p =
      [.present (.readRegister (addrOf p (.pktBase 0)) 0), .present (.readRegister (addrOf p (.pktBase 2)) 0),
      .present (.readRegister (addrOf p (.pktBase 4)) 0)] := by
  rw [readPacket, readCount_of_six h]
  rfl

/-- A failed read among them leaves no bytes (R112). -/
theorem gatherBytes_of_err {rs : List CmdResult} {e : ErrorKind} (h : CmdResult.err e ∈ rs) :
    gatherBytes rs = none := by
  induction rs with
  | nil => cases h
  | cons r rs ih =>
    cases r with
    | okPair hi lo =>
      have hm : CmdResult.err e ∈ rs := by simpa using h
      simp [gatherBytes, ih hm]
    | _ => rfl

/-- Three Ok reads make a packet of six bytes, in the order received (R112). -/
theorem gatherPacket_of_six {p : Config.Params} (h : p.pktLen = 6) (h0 l0 h1 l1 h2 l2 : Byte) :
    gatherPacket p [.okPair h0 l0, .okPair h1 l1, .okPair h2 l2] = some (packetOfBytes h0 l0 h1 l1 h2 l2) := by
  rw [gatherPacket, readCount_of_six h, h]
  rfl

/-! ### The statements -/

/-- Settles O47: the host waits on while no result of the unit is there, and takes the first one. -/
theorem anErrorEndsTheHostsProgram : Obligations.AnErrorEndsTheHostsProgram := by
  intro s u n ht hw
  have hfirst : ∀ es r fs, s.trace.drop n = es ++ .result u r :: fs → (∀ x, Event.result u x ∉ es) →
      resultOf u (s.trace.drop n) = some r := fun es r fs hd hes => by rw [hd, resultOf_append hes, resultOf_cons_same]
  cases hr : resultOf u (s.trace.drop n) with
  | none =>
    refine ⟨_, step_host_no_result ht hw hr, by simp, by simp, by simp, by simp, by simp, by simp, by simp,
      fun _ => by simp, fun es r fs hd hes => ?_⟩
    rw [hfirst es r fs hd hes] at hr
    cases hr
  | some x =>
    refine ⟨_, step_host_result ht hw hr, by simp, by simp, by simp, by simp, by simp, by simp, by simp,
      fun hn => ?_, fun es r fs hd hes => ?_⟩
    · rw [resultOf_eq_none hn] at hr
      cases hr
    · rw [hfirst es r fs hd hes, Option.some.injEq] at hr
      subst hr
      rw [State.setHost_host]
      exact ⟨fun e he => by rw [he, hostTake_err], fun he => hostTake_of_ne_err he _⟩

/-- Settles O48: the timing primitive's turn ends the suspension at a time no earlier than asked for, where the machine
may reach that time; the host's own turn does nothing, and no other agent moves the host. -/
theorem hostSuspensionLastsItsMinimum : Obligations.HostSuspensionLastsItsMinimum := by
  intro s since n hw
  refine ⟨fun ht => ?_, fun ht t hs => ?_⟩
  · have hstep : step s = .next (hostTimerTurn s.afterTurn) := step_of_turn s ht
    have hw' : s.afterTurn.host.wait = .timer since n := by simpa using hw
    rw [hstep]
    cases hr : s.mayReach (s.afterTurn.hostTimerEnd since n) with
    | true =>
      rw [hostTimerTurn_of_mayReach hw' (by simpa using hr)]
      have hmin : since + n * s.cfg.tUnitMs ≤ s.afterTurn.hostTimerEnd since n := by
        simpa [State.hostTimerEnd] using add_le_resumeTime ..
      have hnow : s.clock.now ≤ s.afterTurn.hostTimerEnd since n := by
        simpa [State.hostTimerEnd] using le_resumeTime ..
      exact ⟨_, rfl, by simp, by simp, by simp, by simp, fun _ => ⟨by simp, hmin, hnow⟩, nofun⟩
    | false =>
      rw [hostTimerTurn_of_not_mayReach hw' (by simpa using hr)]
      refine ⟨_, rfl, by simp, by simp, by simp, by simp, fun h => ?_, fun _ => rfl⟩
      obtain ⟨ho, hu⟩ := h.resolve_right nofun
      rw [State.mayReach_free _ hu ho] at hr
      cases hr
  · by_cases hh : s.turn = .host
    · rw [step_host_suspended hh hw, Host.Outcome.next.injEq] at hs
      rw [← hs, State.afterTurn_host]
    · exact step_host_kept hs hh ht

/-- Settles O44: with six bytes there are three reads, whose addresses stay below 0x80, and three pairs of bytes. -/
theorem readPacketGathersSixBytes : Obligations.ReadPacketGathersSixBytes := by
  refine ⟨fun p h6 hwf => ?_, rfl, rfl, rfl, rfl, fun p h0 l0 h1 l1 h2 l2 h6 => ?_, fun p rs e he => ?_⟩
  · have h4 : (AddrExpr.pktBase 4).wf p = true := by simpa [Stmt.wf, readCount_of_six h6, doc] using hwf
    exact ⟨_, _, _, addrOf_toNat (pktBase_wf_of_le h4 (Nat.zero_le 4)), addrOf_toNat (pktBase_wf_of_le h4 (by decide)),
      addrOf_toNat h4, readPacket_of_six h6⟩
  · exact ⟨_, gatherPacket_of_six h6 h0 l0 h1 l1 h2 l2, rawByte_packetOfBytes h0 l0 h1 l1 h2 l2⟩
  · rw [gatherPacket, gatherBytes_of_err he]
    split <;> rfl

/-- Settles O45: the expansions and the named addresses are literals; a sum that is an address does not wrap. -/
theorem pseudoInstructionsExpand : Obligations.PseudoInstructionsExpand :=
  ⟨rfl, rfl, rfl, rfl, fun _ _ => ⟨rfl, rfl, rfl⟩, fun _ _ h => ⟨_, addrOf_toNat h, rfl⟩⟩

end Sys2Proof.Machine
end

section
/-! A whole session of a command that the host issued, in two turns of the engine, and with it `writeRegister`: what it
leaves of the engine, the trace and the sensor, and what a failed one does to RAP space (R57, R70 to R73, R171). -/

namespace Sys2Proof.Machine

/-! ### A whole session -/

/-- From `t` the machine's next two steps open a session of kind `k`, to `u`, and execute it, to `w`: the result goes to
no one but the host, so that the SLC stays as it was (R57, R59, R135). -/
structure SessionRun (k : FrameKind) (t u w : State) : Prop where
  opens : step t = .next u
  executes : step u = .next w
  rpe_open : u.rpe = { t.rpe with sessOpen := true }
  rpe : w.rpe =
    if k = .p ∧ t.session.outcome = .ok then { t.rpe with sessOpen := false, phase := .rdSettle }
    else { t.rpe with
      sessOpen := false, phase := .idle, resValid := true, resCode := outcomeCode t.session.outcome,
      hiR := if k = .d ∧ t.session.outcome = .ok then some t.session.b0 else none,
      loR := if k = .d ∧ t.session.outcome = .ok then some t.session.b1 else none }
  trace : w.trace = t.trace ++ (frameCalls t.cfg k t.rpe.addrR t.rpe.valR ++
    .bpExecute doc.tDeadlineMs (sessionResult k t.session) :: .bpClose ::
      (if k = .p ∧ t.session.outcome = .ok then [.tpSuspend .rpe doc.tSettle]
       else [.result .rpe (outcomeResult
        (if k = .d then .okPair t.session.b0 t.session.b1 else .ok) t.session.outcome)]))
  sensor : w.sensor = sensorAfter k t.rpe.addrR t.rpe.valR (sensorSettles t.cfg t.sensor t.clock.now)
    (t.clock.now + sessionMs t.session) t.session t.sensor
  now : w.clock.now = t.clock.now + sessionMs t.session
  slc : w.slc = t.slc
  ports : w.ports = t.ports
  cfg : w.cfg = t.cfg
  host : w.host = t.host

/-- Two turns of the engine are a whole session, where the SLC awaits none (`sessionStep_rpe`, `sessionStep_rest`,
`sessionStep_trace`). -/
theorem exists_sessionRun {t : State} {k : FrameKind} {ts : List Config.Agent} (hk : t.rpe.phase.frame = some k)
    (ho : t.rpe.sessOpen = false) (hn : ∀ op, t.slc.stage ≠ .await op) (ht : t.inputs.turns = .rpe :: .rpe :: ts) :
    ∃ u w, SessionRun k t u w := by
  obtain ⟨u, hu, h1, h2⟩ := step_two_of_session hk ho ht
  have hopen : (u.setInputs { u.inputs with turns := ts }).rpe.sessOpen = true := by simp [hu]
  obtain ⟨hsensor, _, hports, hcfg, hhost, hnow⟩ := sessionStep_rest (k := k) hopen
  obtain ⟨hslc, htrace⟩ := sessionStep_trace (k := k) hopen (by simpa [hu] using hn)
  exact ⟨u, _, {
    opens := h1
    executes := h2
    rpe_open := by simp [hu]
    rpe := by rw [sessionStep_rpe hopen, hu]; simp
    trace := htrace.trans (by simp [hu])
    sensor := hsensor.trans (by simp [hu, State.early])
    now := hnow.trans (by simp [hu])
    slc := hslc.trans (by simp [hu])
    ports := hports.trans (by simp [hu])
    cfg := hcfg.trans (by simp [hu])
    host := hhost.trans (by simp [hu]) }⟩

/-! ### A write session that failed -/

/-- A failed write is taken exactly if the oracle says so (R73). -/
theorem writeTaken_of_failed {addr : RegAddr} {a : Config.SessionAnswer} (hf : framable addr = true)
    (hfail : a.outcome ≠ .ok) (early : Bool) : writeTaken addr early a = a.latched := by
  simp [writeTaken, hf, hfail]

/-- A write session that is not taken, on a sensor that changed nothing before it, leaves RAP space as it was. -/
theorem sensorAfter_regs_of_not_taken {addr : RegAddr} {early : Bool} {a : Config.SessionAnswer} (hd : a.drift = [])
    (ht : writeTaken addr early a = false) (v : Byte) (now : Nat) (x : Sensor) :
    (sensorAfter .w addr v early now a x).regs = x.regs := by
  simp [sensorAfter, regsAfter, Memory.drift, hd, ht]

/-! ### The statements -/

/-- Settles O13: the command is accepted, and its two turns are one write session. -/
theorem writeRegisterCompletes : Obligations.WriteRegisterCompletes := by
  intro s a v ts hinv hp ha ht
  have ho := hinv.closed_in_idle hp
  obtain ⟨u, w, hrun⟩ := exists_sessionRun (t := acceptRpe .write a v s) (k := .w) (ts := ts)
    (by simp [RpeOp.start]) (by simpa using ho) (by simpa using hinv.not_await hp) (by simpa using ht)
  refine ⟨_, u, w, presentRpe_idle hp ha .write v, hrun.opens, hrun.executes, ?_, ?_, ?_, ?_, ?_, ?_, ?_, ?_, ?_, ?_⟩
  · simp [RpeOp.start, ho]
  · simp [hrun.rpe_open, RpeOp.start]
  · simp [hrun.rpe]
  · simp [hrun.trace, RpeOp.command, frameCalls, ptrW, doc]
  · simp [hrun.sensor]
  · rw [hrun.now, acceptRpe_clock, acceptRpe_session]
    exact Nat.add_le_add_left (sessionMs_le _) _
  · simp [hrun.slc, lcAfterAccept]
  · simp [hrun.ports]
  · simp [hrun.cfg]
  · simp [hrun.host]

/-- Settles O20: the session's effect is a write session's, and a failed one is taken as the oracle chooses. -/
theorem failedWriteLeavesOldOrNewValue : Obligations.FailedWriteLeavesOldOrNewValue := by
  intro s s' ht hp ho hfail hf ⟨hdrift, hlater⟩ hs
  rw [step_executed_sensor (k := .w) ht (Phase.frame_eq_w.2 hp) ho hs]
  refine ⟨fun hl => ?_, fun hl => ?_⟩
  · exact sensorAfter_regs_of_not_taken hdrift ((writeTaken_of_failed hf hfail _).trans hl) ..
  · exact sensorAfter_reg_of_taken (writeTaken_of_latched hf hl _) (.inr hlater) ..

end Sys2Proof.Machine
end

section
/-! `readRegister`: its pointer phase, the settling delay and who ends it, its read phase, and the whole of it (R80 to
R87, R160, R171, R172). -/

namespace Sys2Proof.Machine

/-! ### The settling delay -/

/-- The timing primitive's turn ends the settling delay (R83, R172), wherever the turn comes from. -/
theorem step_of_settleTimer {s : State} (hp : s.rpe.phase = .rdSettle) (ht : s.turn = .settleTimer) :
    step s = .next (resumeSettle s.afterTurn) := by
  simp [step_of_turn s ht, takeTurn, settleTimerTurn, hp]

/-- The settling delay ends no earlier than asked for (R83, R160). -/
theorem settleEnd_le_resumeSettle (s : State) :
    s.clock.settleSince + 30 * s.cfg.tUnitMs ≤ (resumeSettle s).clock.now := by
  simpa [doc] using add_le_resumeTime ..

/-- The end of the settling delay lies not before now. -/
theorem le_resumeSettle_now (s : State) : s.clock.now ≤ (resumeSettle s).clock.now := by
  simpa using le_resumeTime ..

/-- In the settling delay only the timing primitive and a reset have a move that changes the engine (R84, R172): the
others need an idle engine or one in a session, or leave it alone. -/
theorem StepEffect.rpe_of_settling {who : Config.Agent} {s s' : State} (he : StepEffect who s s')
    (hp : s.rpe.phase = .rdSettle) (ht : who ≠ .settleTimer) (hr : who ≠ .reset) : s'.rpe = s.rpe := by
  cases he with
  | stay => rfl
  | accept _ _ _ _ _ hi => rw [hp] at hi; cases hi
  | session _ _ hk => rw [hp] at hk; cases hk
  | slcIssue _ _ _ _ hi => rw [hp] at hi; cases hi
  | slcStart => simp
  | configureStart => simp
  | configure _ _ _ hi => rw [hp] at hi; cases hi
  | resumeSettle hw => exact absurd hw ht
  | resumePostClear => simp
  | host _ _ he => exact he.rpe
  | reset hw => exact absurd hw hr

/-! ### What a whole session hands on to the next step of its command -/

/-- An executed session uses up no turn. -/
@[simp] theorem State.afterSession_turns (s : State) : s.afterSession.inputs.turns = s.inputs.turns := by
  unfold State.afterSession; split <;> rfl

section

variable {k : FrameKind} {t u w : State} {ts : List Config.Agent} (h : SessionRun k t u w)
  (hk : t.rpe.phase.frame = some k) (ho : t.rpe.sessOpen = false) (ht : t.inputs.turns = .rpe :: .rpe :: ts)

include h hk ho ht

/-- The states of a whole session are those of its two turns (`step_two_of_session`). -/
theorem SessionRun.states :
    u = openSession k (t.setInputs { t.inputs with turns := .rpe :: ts }) ∧
      w = sessionStep k (u.setInputs { u.inputs with turns := ts }) := by
  obtain ⟨u', hu, hopens, hexecutes⟩ := step_two_of_session hk ho ht
  obtain rfl : u = u' := by simpa [h.opens] using hopens
  exact ⟨hu, by simpa [h.executes] using hexecutes⟩

/-- The answer of a session is the one that stands ready when it is opened. -/
theorem SessionRun.session_open : u.session = t.session := by
  obtain ⟨hu, _⟩ := h.states hk ho ht
  simp [hu]

/-- A whole session takes the engine's two turns and no other. -/
theorem SessionRun.turns : w.inputs.turns = ts := by
  obtain ⟨hu, hw⟩ := h.states hk ho ht
  obtain ⟨_, hinputs, _⟩ := sessionStep_rest (k := k) (s := u.setInputs { u.inputs with turns := ts }) (by simp [hu])
  rw [hw, hinputs, State.afterSession_turns, State.setInputs_inputs]

/-- The settling delay is asked for at the end of the pointer session (R83). -/
theorem SessionRun.settleSince (hp : k = .p) (hok : t.session.outcome = .ok) :
    w.clock.settleSince = w.clock.now := by
  obtain ⟨hu, hw⟩ := h.states hk ho ht
  rw [hw, hu, hp]
  simp [sessionStep, afterClose, hok]

end

/-! ### A whole read -/

/-- From `t`, in which a read has been accepted, the machine's next five steps are a pointer session, to `w`, the end of
the settling delay asked for at its end, to `x`, and a read session (R80, R83, R85). -/
structure ReadRun (t u w x y z : State) : Prop where
  pointer : SessionRun .p t u w
  settleSince : w.clock.settleSince = w.clock.now
  resumes : step w = .next x
  resumed : x = resumeSettle w.afterTurn
  data : SessionRun .d x y z
  answer : y.session = x.session

/-- Five turns are a whole read, where the pointer session returns `Ok` and the SLC awaits none. -/
theorem exists_readRun {t : State} {ts : List Config.Agent} (hk : t.rpe.phase.frame = some .p)
    (ho : t.rpe.sessOpen = false) (hn : ∀ op, t.slc.stage ≠ .await op)
    (ht : t.inputs.turns = .rpe :: .rpe :: .settleTimer :: .rpe :: .rpe :: ts) (hok : t.session.outcome = .ok) :
    ∃ u w x y z, ReadRun t u w x y z := by
  obtain ⟨u, w, hptr⟩ := exists_sessionRun hk ho hn ht
  have hw : w.rpe = { t.rpe with sessOpen := false, phase := .rdSettle } := by simp [hptr.rpe, hok]
  have hturns := hptr.turns hk ho ht
  have hkx : (resumeSettle w.afterTurn).rpe.phase.frame = some .d := by simp
  have hox : (resumeSettle w.afterTurn).rpe.sessOpen = false := by simp [hw]
  have htx : (resumeSettle w.afterTurn).inputs.turns = .rpe :: .rpe :: ts := by
    simp [afterDelay_lists, afterTurn_cons w hturns]
  obtain ⟨y, z, hdata⟩ := exists_sessionRun hkx hox (by simpa [hptr.slc] using hn) htx
  exact ⟨u, w, _, y, z, {
    pointer := hptr
    settleSince := hptr.settleSince hk ho ht rfl hok
    resumes := step_of_settleTimer (by simp [hw]) (turn_cons w hturns)
    resumed := rfl
    data := hdata
    answer := hdata.session_open hkx hox htx }⟩

/-- The two sessions of a read lie at least T_SETTLE time units apart (R83, R160). -/
theorem ReadRun.delay_le {t u w x y z : State} (h : ReadRun t u w x y z) :
    w.clock.now + 30 * t.cfg.tUnitMs ≤ x.clock.now := by
  simpa [h.resumed, h.settleSince, h.pointer.cfg] using settleEnd_le_resumeSettle w.afterTurn

/-! ### The statements -/

/-- Settles O16: no other agent's move changes a settling engine, and a busy one holds the words at its port. -/
theorem onlyTheTimerEndsTheSettlingDelay : Obligations.OnlyTheTimerEndsTheSettlingDelay := by
  intro s s' hp ht hr hs
  have he := step_effect hs
  refine ⟨?_, ?_⟩
  · simpa using he.rpe_of_settling (by simpa using hp) ht hr
  · simpa using he.holds_words (by simp [hp])

/-- Settles O17: the timing primitive's turn is the end of the delay. -/
theorem settlingDelayLastsItsMinimum : Obligations.SettlingDelayLastsItsMinimum := by
  intro s hp ht
  refine ⟨_, step_of_settleTimer hp ht, by simp, ?_, ?_, by simp, by simp, by simp, by simp, by simp, by simp⟩
  · simpa using settleEnd_le_resumeSettle s.afterTurn
  · simpa using le_resumeSettle_now s.afterTurn

/-- Settles O14: the command is accepted, and its next two turns are one pointer session. -/
theorem readRegisterPointerPhase : Obligations.ReadRegisterPointerPhase := by
  intro s a l ts hinv hp ha ht
  have ho := hinv.closed_in_idle hp
  obtain ⟨u, w, hrun⟩ := exists_sessionRun (t := acceptRpe .read a l s) (k := .p) (ts := ts)
    (by simp [RpeOp.start]) (by simpa using ho) (by simpa using hinv.not_await hp) (by simpa using ht)
  refine ⟨_, u, w, presentRpe_idle hp ha .read l, hrun.opens, hrun.executes, ?_, ?_, ?_, ?_, ?_, ?_⟩
  · rw [hrun.rpe]
    by_cases hok : s.session.outcome = .ok <;> simp [hok]
  · simp [hrun.trace, frameCalls, ptrR, doc]
  · simp [hrun.sensor]
  · simp [hrun.ports]
  · simp [hrun.cfg]
  · simp [hrun.host]

/-- Settles O15: the command is accepted, and its next five turns are one whole read. -/
theorem readRegisterCompletes : Obligations.ReadRegisterCompletes := by
  intro s a l ts hinv hp ha hok ht
  have ho := hinv.closed_in_idle hp
  obtain ⟨u, w, x, y, z, hrun⟩ := exists_readRun (t := acceptRpe .read a l s) (ts := ts) (by simp [RpeOp.start])
    (by simpa using ho) (by simpa using hinv.not_await hp) (by simpa using ht) (by simpa using hok)
  have hdelay : w.clock.now + 30 * s.cfg.tUnitMs ≤ x.clock.now := by simpa using hrun.delay_le
  obtain ⟨hptr, -, hresumes, hresumed, hdata, hanswer⟩ := hrun
  have hw : w.rpe = { (acceptRpe .read a l s).rpe with sessOpen := false, phase := .rdSettle } := by
    simp [hptr.rpe, hok]
  have hx : x.rpe = { (acceptRpe .read a l s).rpe with sessOpen := false, phase := .rdDataSession } := by
    simp [hresumed, hw]
  have hxtrace : x.trace = w.trace ++ [.tpResume .rpe] := by simp [hresumed]
  have hxcfg : x.cfg = s.cfg := by simp [hresumed, hptr.cfg]
  have hxports : x.ports = s.ports := by simp [hresumed, hptr.ports]
  have hwnow : w.clock.now = s.clock.now + sessionMs s.session := by simp [hptr.now]
  have hpms : sessionMs s.session ≤ 1000 := sessionMs_le _
  have hdms : sessionMs x.session ≤ 1000 := sessionMs_le _
  refine ⟨_, u, w, x, y, z, presentRpe_idle hp ha .read l, hptr.opens, hptr.executes, hresumes, hdata.opens,
    hdata.executes, ?_, ?_, ?_, hdelay, ?_, ?_, ?_, ?_⟩
  · simp [hptr.rpe_open, hw, hx, hdata.rpe_open, RpeOp.start]
  · simp [hdata.rpe, hx, hanswer]
  · simp [hdata.trace, hxtrace, hptr.trace, hxcfg, hok, hanswer, frameCalls, ptrR, sessionResult, doc]
  · rw [hdata.now]; omega
  · rw [hdata.now]; omega
  · rw [hdata.ports, hxports]
  · rw [hdata.cfg, hxcfg]

end Sys2Proof.Machine
end

section
/-! PROOF. The data-ready primitive: the two answers of `dataReady` (R95), and the command that gives them to the
caller (R95, R96). -/

namespace Sys2Proof.Machine

theorem dataReady_of_active {p : Config.Params} {d : Level} (h : d = p.drActiveLevel) : dataReady p d = true :=
  decide_eq_true h

theorem dataReady_of_inactive {p : Config.Params} {d : Level} (h : d ≠ p.drActiveLevel) : dataReady p d = false :=
  decide_eq_false h

/-- Settles O25: the command reads the pin once and answers `dataReady`, whose two cases are the two clauses. -/
theorem isDataReadyAnswersThePinLevel : Obligations.IsDataReadyAnswersThePinLevel := by
  intro s d
  rw [exec_isDataReady]
  refine ⟨fun hactive => ?_, fun hinactive => ?_⟩
  · rw [dataReady_of_active hactive]
  · rw [dataReady_of_inactive hinactive]

end Sys2Proof.Machine
end

section
/-! PROOF. The touch-report decoder (R100 to R110): a raw coordinate and a clipped one as numbers, the bits of a packet
that a report is made of, and the command that returns the report. -/

namespace Sys2Proof.Machine

/-! ### Raw coordinates -/

/-- A raw coordinate is 256 times its high nibble plus its low byte (R103, R104). -/
theorem rawCoord_toNat (P : Packet) (high : Config.Nibble) (low : Nat) :
    (rawCoord P high low).toNat =
      256 * ((rawByte P high.byte).toNat / 2 ^ high.lo.val % 16) + (rawByte P low).toNat := by
  have hlow : (rawByte P low).toNat < 2 ^ 8 := (rawByte P low).isLt
  have hnib : (rawByte P high.byte).toNat / 2 ^ high.lo.val % 16 < 16 := Nat.mod_lt _ (by decide)
  have hshift : (((rawByte P high.byte).extractLsb' high.lo 4).setWidth 16 <<< 8).toNat =
      ((rawByte P high.byte).toNat / 2 ^ high.lo.val % 16) <<< 8 := by
    simp only [BitVec.toNat_shiftLeft, BitVec.toNat_setWidth, BitVec.extractLsb'_toNat, Nat.shiftRight_eq_div_pow,
      Nat.shiftLeft_eq]
    omega
  rw [rawCoord, BitVec.toNat_or, hshift, BitVec.toNat_setWidth_of_le (by decide),
    ← Nat.shiftLeft_add_eq_or_of_lt hlow, Nat.shiftLeft_eq, Nat.mul_comm]

/-- A raw coordinate depends on its two bytes only (R103, R104). -/
theorem rawCoord_congr {P Q : Packet} {high : Config.Nibble} {low : Nat}
    (hhigh : rawByte P high.byte = rawByte Q high.byte) (hlow : rawByte P low = rawByte Q low) :
    rawCoord P high low = rawCoord Q high low := by
  rw [rawCoord, rawCoord, hhigh, hlow]

/-! ### Clipping -/

/-- The reported X is the raw one, clipped to the window (R106). -/
theorem decodeReport_xValue_toNat (p : Config.Params) (P : Packet) :
    (decodeReport p P).xValue.toNat = max 127 (min 1919 (xRaw p P).toNat) :=
  clamp_toNat _ _ _ (by decide)

/-- The reported Y is the raw one, clipped to the window (R107). -/
theorem decodeReport_yValue_toNat (p : Config.Params) (P : Packet) :
    (decodeReport p P).yValue.toNat = max 63 (min 1471 (yRaw p P).toNat) :=
  clamp_toNat _ _ _ (by decide)

/-! ### The bits that a report is made of -/

/-- A report depends on the raw coordinates, the raw Z, the buttons and the touch bit only (R100 to R108). -/
theorem decodeReport_congr {p : Config.Params} {P Q : Packet} (hx : xRaw p P = xRaw p Q) (hy : yRaw p P = yRaw p Q)
    (hz : zRaw p P = zRaw p Q)
    (hbuttons : rawByte P p.layout.status &&& p.buttonMask = rawByte Q p.layout.status &&& p.buttonMask)
    (htouch : (rawByte P p.layout.status).getLsbD p.touchBit = (rawByte Q p.layout.status).getLsbD p.touchBit) :
    decodeReport p P = decodeReport p Q := by
  simp only [decodeReport, hx, hy, hz, hbuttons, htouch]

/-- The bits that `decode` uses, with the parameters at their defaults: all but bit 6 of `raw[0]`, `raw[1]` and
bits 7:6 of `raw[5]` (R110). -/
def decodedBits : Packet := 0x3FFFFFFF00BF#48

theorem rawByte_and (P Q : Packet) (i : Nat) : rawByte (P &&& Q) i = rawByte P i &&& rawByte Q i :=
  BitVec.extractLsb'_and

/-- A mask that lies in the bits kept of a byte sees no other bit of it. -/
theorem rawByte_and_and {M : Packet} {i : Nat} {m : Byte} (h : rawByte M i &&& m = m) (P : Packet) :
    rawByte (P &&& M) i &&& m = rawByte P i &&& m := by
  rw [rawByte_and, BitVec.and_assoc, h]

/-- A byte all of whose bits are kept is as before. -/
theorem rawByte_and_of_allOnes {M : Packet} {i : Nat} (h : rawByte M i = BitVec.allOnes 8) (P : Packet) :
    rawByte (P &&& M) i = rawByte P i := by
  rw [rawByte_and, h, BitVec.and_allOnes]

/-- A bit that is kept is as before. -/
theorem rawByte_and_getLsbD {M : Packet} {i n : Nat} (h : (rawByte M i).getLsbD n = true) (P : Packet) :
    (rawByte (P &&& M) i).getLsbD n = (rawByte P i).getLsbD n := by
  rw [rawByte_and, BitVec.getLsbD_and, h, Bool.and_true]

/-- The report is made of the bits named above only (R110). -/
theorem decodeReport_and_decodedBits (P : Packet) :
    decodeReport defaultParams (P &&& decodedBits) = decodeReport defaultParams P := by
  have hhigh : rawByte (P &&& decodedBits) 4 = rawByte P 4 := rawByte_and_of_allOnes (by decide) P
  have hxLow : rawByte (P &&& decodedBits) 2 = rawByte P 2 := rawByte_and_of_allOnes (by decide) P
  have hyLow : rawByte (P &&& decodedBits) 3 = rawByte P 3 := rawByte_and_of_allOnes (by decide) P
  have hz : rawByte (P &&& decodedBits) 5 &&& 0x3F = rawByte P 5 &&& 0x3F := rawByte_and_and (by decide) P
  have hbuttons : rawByte (P &&& decodedBits) 0 &&& 0x3F = rawByte P 0 &&& 0x3F := rawByte_and_and (by decide) P
  have htouch : (rawByte (P &&& decodedBits) 0).getLsbD 7 = (rawByte P 0).getLsbD 7 :=
    rawByte_and_getLsbD (by decide) P
  exact decodeReport_congr (rawCoord_congr hhigh hxLow) (rawCoord_congr hhigh hyLow)
    (congrArg (BitVec.setWidth 16) hz) hbuttons htouch

/-! ### The statements -/

/-- Settles O22: the command returns `decodeReport`, whose fields are taken from the six bytes at the default places. -/
theorem decodeDeliversTheReport : Obligations.DecodeDeliversTheReport := by
  intro s b0 b1 b2 b3 b4 b5 hlayout
  obtain ⟨h0, -, h2, h3, h4, h5⟩ := rawByte_packetOfBytes b0 b1 b2 b3 b4 b5
  refine ⟨_, exec_decode _ s, ?_, ?_, ?_, ?_, ?_⟩
  · rw [decodeReport_xValue_toNat, xRaw, rawCoord_toNat]
    simp [hlayout, defaultLayout, h2, h4]
  · rw [decodeReport_yValue_toNat, yRaw, rawCoord_toNat]
    have hnib : b4.toNat / 16 < 16 := by omega
    simp [hlayout, defaultLayout, h3, h4, Nat.mod_eq_of_lt hnib]
  · simp [decodeReport, zRaw, hlayout, defaultLayout, h5]
  · simp [decodeReport, hlayout, defaultLayout, h0]
  · simp [decodeReport, hlayout, defaultLayout, h0]

/-- Settles O23: each clause is a case of the clipped coordinate's number. -/
theorem coordinatesAreClippedToTheWindow : Obligations.CoordinatesAreClippedToTheWindow := by
  intro p P
  have hx := decodeReport_xValue_toNat p P
  have hy := decodeReport_yValue_toNat p P
  refine ⟨fun hbelow => ?_, fun habove => ?_, fun hlo hhi => BitVec.eq_of_toNat_eq ?_,
    fun hbelow => ?_, fun habove => ?_, fun hlo hhi => BitVec.eq_of_toNat_eq ?_, ?_, ?_, ?_, ?_⟩ <;> omega

/-- Settles O24: either report is the one of the bits that `decode` uses, and in these the packets agree. -/
theorem ignoredPacketBitsDoNotMatter : Obligations.IgnoredPacketBitsDoNotMatter := by
  intro P Q h
  rw [← decodeReport_and_decodedBits P, ← decodeReport_and_decodedBits Q]
  exact congrArg (decodeReport defaultParams) h

end Sys2Proof.Machine
end

section
/-! The lifecycle controller's commands: what it accepts, refuses and holds, the configuration calls of
`initializeSensor`, and the two commands that write a register, from acceptance to the end of the write and of the
post-clear delay (R57, R76, R116 to R123, R135, R160, R164, R171). -/

namespace Sys2Proof.Machine

/-! ### A command presented to the SLC -/

/-- The two SLC commands that write a register are presented by one rule (R117, R118). -/
theorem exec_slcCommand (op : SlcOp) (s : State) : exec op.command s = presentSlc op s := by cases op <;> rfl

theorem slcAllowed_enable_iff {l : LcState} : slcAllowed .enableDataFeed l = true ↔ l = .busConfigured :=
  decide_eq_true_iff

theorem slcAllowed_clear_iff {l : LcState} :
    slcAllowed .clearStatusFlags l = true ↔ l = .feedEnabled ∨ l = .ready ∨ l = .flagsCleared := by
  simp [slcAllowed, or_assoc]

theorem presentSlc_busy {s : State} (hb : s.slc.lcBusy = true) (op : SlcOp) :
    presentSlc op s = .next (holdSlc op.word s) := by
  simp [presentSlc, hb]

theorem presentSlc_allowed {op : SlcOp} {s : State} (hb : s.slc.lcBusy = false)
    (ha : slcAllowed op s.slc.lcState = true) : presentSlc op s = .next (slcStart op s) := by
  simp [presentSlc, hb, ha]

theorem presentSlc_refused {op : SlcOp} {s : State} (hb : s.slc.lcBusy = false)
    (ha : ¬ slcAllowed op s.slc.lcState = true) : presentSlc op s = .refused .lifecycleState := by
  simp [presentSlc, hb, ha]

theorem execInitializeSensor_busy {s : State} (hb : s.slc.lcBusy = true) :
    execInitializeSensor s = .next (holdSlc 0#2 s) := by
  simp [execInitializeSensor, hb]

theorem execInitializeSensor_allowed {s : State} (hb : s.slc.lcBusy = false) (hl : s.slc.lcState = .uninitialized) :
    execInitializeSensor s = .next (configureStart s) := by
  simp [execInitializeSensor, hb, hl]

theorem execInitializeSensor_refused {s : State} (hb : s.slc.lcBusy = false) (hl : s.slc.lcState ≠ .uninitialized) :
    execInitializeSensor s = .refused .lifecycleState := by
  simp [execInitializeSensor, hb, hl]

/-! ### The configuration calls of `initializeSensor` -/

theorem bothOk_iff {c : Config.ConfigAnswers} : bothOk c = true ↔ c.bus = .ok ∧ c.pin = .ok := by
  simp [bothOk]

/-- The platform's answers depend on the inputs alone. -/
theorem State.config_congr {s t : State} (h : t.inputs.configs = s.inputs.configs)
    (h' : t.inputs.draws = s.inputs.draws) : t.config = s.config := by
  unfold State.config; rw [h, h']

/-- The SLC's turn in `initializeSensor` with the engine idle (R116), whether the turn is listed or free. -/
theorem step_configure {s : State} (ht : s.turn = .slc) (hb : s.slc.lcBusy = true) (hst : s.slc.stage = .configuring)
    (hp : s.rpe.phase = .idle) : step s = .next (configure s.afterTurn) := by
  simp [step_of_turn s ht, takeTurn, slcTurn, hb, hst, State.busy, hp]

/-- While a transaction is in flight the SLC's turn in `initializeSensor` calls nothing (R57, R83). -/
theorem step_configuring_waits {s : State} (ht : s.turn = .slc) (hb : s.slc.lcBusy = true)
    (hst : s.slc.stage = .configuring) (hp : s.rpe.phase ≠ .idle) : step s = .next s.afterTurn := by
  simp [step_of_turn s ht, takeTurn, slcTurn, hb, hst, State.busy, hp]

/-- `initializeSensor` ends by the two answers (R116, R122, R133): where the SLC stands and what the trace shows. -/
theorem configure_by_answers (s : State) :
    (configure s).slc =
      { lcState := if s.config.bus = .ok ∧ s.config.pin = .ok then .busConfigured else .terminal,
        lcBusy := false, stage := .idle } ∧
    (configure s).trace = s.trace ++
      [.bpConfigure s.cfg.busClockHz s.cfg.busPullups s.config.bus, .pinConfigureInput s.cfg.drPin s.config.pin,
       .result .slc (if s.config.bus = .ok ∧ s.config.pin = .ok then .ok else .err .config)] := by
  rw [configure, configDone]
  by_cases hc : s.config.bus = .ok ∧ s.config.pin = .ok
  · rw [if_pos (bothOk_iff.2 hc), if_pos hc, if_pos hc]
    simp [configCalls]
  · rw [if_neg (mt bothOk_iff.1 hc), if_neg hc, if_neg hc]
    simp [configCalls]

/-- The calls leave their mark in the platform, whatever the end (R22). -/
theorem configure_sensor (s : State) : (configure s).sensor = sensorConfigured s.config s.sensor := by
  rw [configure, configDone]
  split <;> simp

/-- Both calls accepted, the engine is as it was. -/
theorem configure_rpe_of_accepted {s : State} (hc : s.config.bus = .ok ∧ s.config.pin = .ok) :
    (configure s).rpe = s.rpe := by
  rw [configure, configDone, if_pos (bothOk_iff.2 hc)]
  simp

/-- With the engine idle a call that was rejected shows in the result fields (R134). -/
theorem configure_rpe_of_rejected {s : State} (hc : ¬ (s.config.bus = .ok ∧ s.config.pin = .ok))
    (hp : s.rpe.phase = .idle) :
    (configure s).rpe = { s.rpe with resValid := true, resCode := .config, hiR := none, loR := none } := by
  rw [configure, configDone, if_neg (mt bothOk_iff.1 hc), raiseError_slc_rpe_idle _ _ (by simpa using hp)]
  simp [ErrorKind.resCode]

/-! ### The SLC's own register write -/

/-- The SLC once the write of `op` has ended with the outcome `o`. -/
def Slc.afterWrite (op : SlcOp) (o : Config.SessionOutcome) (c : Slc) : Slc :=
  match o, op with
  | .ok, .enableDataFeed => { lcState := .feedEnabled, lcBusy := false, stage := .idle }
  | .ok, .clearStatusFlags => { c with stage := .postClear }
  | _, op => { lcState := lcAfterFailure op c.lcState, lcBusy := false, stage := .idle }

/-- The SLC's event at the end of the write of `op`: the suspension of the post-clear delay, else its result. -/
def slcEventAfterWrite (op : SlcOp) (o : Config.SessionOutcome) : Event :=
  match o, op with
  | .ok, .clearStatusFlags => .tpSuspend .slc doc.tPostClear
  | o, _ => .result .slc (outcomeResult .ok o)

/-- A failed write frees the SLC, with the lifecycle state that R117, R118, R122 and R123 give it. -/
theorem Slc.afterWrite_of_failed {o : Config.SessionOutcome} (h : o ≠ .ok) (op : SlcOp) (c : Slc) :
    c.afterWrite op o = { lcState := lcAfterFailure op c.lcState, lcBusy := false, stage := .idle } := by
  cases o with
  | ok => exact absurd rfl h
  | noAck => rfl
  | timeout => rfl

/-- On the failure path there is no suspension: the error goes back unchanged (R118, R135). -/
theorem slcEventAfterWrite_of_failed {o : Config.SessionOutcome} (h : o ≠ .ok) (op : SlcOp) :
    slcEventAfterWrite op o = .result .slc (outcomeResult .ok o) := by
  cases o with
  | ok => exact absurd rfl h
  | noAck => rfl
  | timeout => rfl

/-- No delay follows the write of `enableDataFeed` (R117). -/
theorem slcEventAfterWrite_enable (o : Config.SessionOutcome) :
    slcEventAfterWrite .enableDataFeed o = .result .slc (outcomeResult .ok o) := by
  cases o <;> rfl

theorem Slc.afterWrite_enable (o : Config.SessionOutcome) (c : Slc) :
    c.afterWrite .enableDataFeed o =
      { lcState := if o = .ok then .feedEnabled else .terminal, lcBusy := false, stage := .idle } := by
  cases o <;> rfl

/-- A failed clear is fatal from `FeedEnabled` only (R122, R123). -/
theorem lcAfterFailure_clear (l : LcState) :
    lcAfterFailure .clearStatusFlags l = if l = .feedEnabled then .terminal else l := by
  cases l <;> rfl

/-- What the write's `Ok` makes of the SLC (R117 to R119). -/
theorem slcWriteOk_by_op (op : SlcOp) (s : State) :
    (slcWriteOk op s).slc = s.slc.afterWrite op .ok ∧
    (slcWriteOk op s).trace = s.trace ++ [slcEventAfterWrite op .ok] ∧
    (op = .clearStatusFlags → (slcWriteOk op s).clock.postClearSince = s.clock.now) := by
  cases op <;> simp [slcWriteOk, Slc.afterWrite, slcEventAfterWrite, outcomeResult]

/-- The write session of the SLC's command, executed: the SLC gets the result in the same step (R134, R135), and a
post-clear delay counts from here (R119). -/
theorem sessionStep_of_await {s : State} {op : SlcOp} (h : s.rpe.sessOpen = true) (hs : s.slc.stage = .await op) :
    (sessionStep .w s).slc = s.slc.afterWrite op s.session.outcome ∧
    (sessionStep .w s).trace = s.trace ++
      [.bpExecute doc.tDeadlineMs (sessionResult .w s.session), .bpClose,
       .result .rpe (outcomeResult .ok s.session.outcome), slcEventAfterWrite op s.session.outcome] ∧
    (op = .clearStatusFlags → s.session.outcome = .ok →
      (sessionStep .w s).clock.postClearSince = (sessionStep .w s).clock.now) := by
  have hs' : (closeSession .w s).slc.stage = .await op := by simpa using hs
  have hfailed (e : ErrorKind) (he : sessionStep .w s = completeErr e (closeSession .w s)) :
      (sessionStep .w s).slc = { lcState := lcAfterFailure op s.slc.lcState, lcBusy := false, stage := .idle } ∧
      (sessionStep .w s).trace = s.trace ++
        [.bpExecute doc.tDeadlineMs (sessionResult .w s.session), .bpClose, .result .rpe (.err e),
         .result .slc (.err e)] := by
    rw [he, completeErr_of_await e _ hs']
    simp [slcWriteFailed]
  rcases sessionStep_cases .w s with ⟨ho, _⟩ | ⟨_, ha, _, e⟩ | ⟨_, _, hk, _⟩ | ⟨_, _, hk, _⟩ | ⟨_, ha, e⟩ | ⟨_, ha, e⟩
  · simp [h] at ho
  · obtain ⟨_, _, _, _, _, hnow⟩ := sessionStep_rest (k := .w) h
    rw [hnow, e, completeOk_of_await _ hs', ha]
    obtain ⟨hslc, htrace, hsince⟩ := slcWriteOk_by_op op (((closeSession .w s).setRpe { (closeSession .w s).rpe with
      phase := .idle, resValid := true, resCode := .ok, hiR := none, loR := none }).emit [.result .rpe .ok])
    refine ⟨by simpa using hslc, by simpa [outcomeResult] using htrace, fun hop _ => by simpa using hsince hop⟩
  · cases hk
  · cases hk
  · obtain ⟨hslc, htrace⟩ := hfailed .noAck e
    rw [ha]
    exact ⟨hslc, htrace, nofun⟩
  · obtain ⟨hslc, htrace⟩ := hfailed .timeout e
    rw [ha]
    exact ⟨hslc, htrace, nofun⟩

/-- An SLC command that writes a register, from its presentation in `s` to the end of its write in `x`: it is accepted,
to `t`, the idle engine accepts its write, to `u`, opens the write's session, to `w`, and executes it (R76, R117,
R118). -/
structure SlcWriteRun (op : SlcOp) (s t u w x : State) : Prop where
  accepts : exec op.command s = .next t
  issues : step t = .next u
  opens : step u = .next w
  executes : step w = .next x
  busy_accepted : t.slc.lcBusy = true
  busy_issued : u.slc.lcBusy = true
  busy_opened : w.slc.lcBusy = true
  rpe_accepted : t.rpe = s.rpe
  op_issued : u.rpe.opR = .write
  phase_issued : u.rpe.phase = .wrSession
  slc : x.slc = ({ s.slc with lcBusy := true, stage := .await op } : Slc).afterWrite op s.session.outcome
  rpe : x.rpe = { opR := .write, addrR := (slcWrite op).1, valR := (slcWrite op).2, phase := .idle, sessOpen := false,
                  resValid := true, resCode := outcomeCode s.session.outcome, hiR := none, loR := none }
  trace : x.trace = s.trace ++ ([.accept op.command, .accept (.writeRegister (slcWrite op).1 (slcWrite op).2)] ++
    frameCalls s.cfg .w (slcWrite op).1 (slcWrite op).2 ++
    [.bpExecute doc.tDeadlineMs (sessionResult .w s.session), .bpClose,
     .result .rpe (outcomeResult .ok s.session.outcome), slcEventAfterWrite op s.session.outcome])
  sensor : x.sensor = sensorAfter .w (slcWrite op).1 (slcWrite op).2 (sensorSettles s.cfg s.sensor s.clock.now)
    (s.clock.now + sessionMs s.session) s.session s.sensor
  now : x.clock.now = s.clock.now + sessionMs s.session
  postClearSince : op = .clearStatusFlags → s.session.outcome = .ok → x.clock.postClearSince = x.clock.now
  ports : x.ports = s.ports
  cfg : x.cfg = s.cfg
  host : x.host = s.host

/-- An allowed command presented to a free SLC beside an idle engine, then one turn of the SLC and two of the engine;
the turns listed behind them are still to come. -/
theorem exists_slcWriteRun {s : State} {op : SlcOp} {ts : List Config.Agent} (hinv : s.Inv)
    (hb : s.slc.lcBusy = false) (ha : slcAllowed op s.slc.lcState = true) (hp : s.rpe.phase = .idle)
    (ht : s.inputs.turns = .slc :: .rpe :: .rpe :: ts) :
    ∃ t u w x, SlcWriteRun op s t u w x ∧ x.inputs.turns = ts := by
  have ho := hinv.closed_in_idle hp
  obtain ⟨u, hu⟩ : ∃ u, u = slcIssue op ((slcStart op s).setInputs { s.inputs with turns := .rpe :: .rpe :: ts }) :=
    ⟨_, rfl⟩
  have hissue : step (slcStart op s) = .next u := by
    rw [hu]
    exact step_slcIssue (by simpa using ht) (by simp) (by simp) (by simpa using hp)
  have hphase : u.rpe.phase = .wrSession := by simp [hu, RpeOp.start]
  obtain ⟨w, hw, hopens, hexecutes⟩ := step_two_of_session (k := .w) (t := u) (ts := ts)
    (Phase.frame_eq_w.2 hphase) (by simpa [hu] using ho) (by simp [hu])
  have hopen : (w.setInputs { w.inputs with turns := ts }).rpe.sessOpen = true := by simp [hw]
  obtain ⟨hslc, htrace, hsince⟩ := sessionStep_of_await (op := op) hopen (by simp [hw, hu])
  obtain ⟨hsensor, hinputs, hports, hcfg, hhost, hnow⟩ := sessionStep_rest (k := .w) hopen
  have hanswer : w.session = s.session := by simp [hw, hu]
  refine ⟨_, u, w, _, {
    accepts := (exec_slcCommand op s).trans (presentSlc_allowed hb ha)
    issues := hissue
    opens := hopens
    executes := hexecutes
    busy_accepted := by simp
    busy_issued := by simp [hu]
    busy_opened := by simp [hw, hu]
    rpe_accepted := by simp
    op_issued := by simp [hu]
    phase_issued := hphase
    slc := hslc.trans (by simp [hw, hu])
    rpe := by rw [sessionStep_rpe hopen]; simp [hw, hu]
    trace := htrace.trans (by simp [hw, hu])
    sensor := hsensor.trans (by simp [hw, hu, State.early])
    now := hnow.trans (by simp [hw, hu])
    postClearSince := by simpa [hanswer] using hsince
    ports := hports.trans (by simp [hw, hu])
    cfg := hcfg.trans (by simp [hw, hu])
    host := hhost.trans (by simp [hw, hu]) }, ?_⟩
  rw [hinputs, State.afterSession_turns, State.setInputs_inputs]

/-! ### The post-clear delay -/

/-- Beside an idle engine with no session open the timing primitive's turn ends the post-clear delay (R119). -/
theorem step_postClearTimer {s : State} (ht : s.turn = .postClearTimer) (hst : s.slc.stage = .postClear)
    (hp : s.rpe.phase = .idle) (ho : s.rpe.sessOpen = false) : step s = .next (resumePostClear s.afterTurn) := by
  have hr : s.mayReach s.afterTurn.postClearEnd = true :=
    State.mayReach_free _ (by simp [State.urgent, hp, hst, Phase.frame]) ho
  simp [step_of_turn s ht, takeTurn, postClearTimerTurn, hst, hr]

/-- The post-clear delay ends no earlier than asked for (R119, R160). -/
theorem postClearEnd_le_resumePostClear (s : State) :
    s.clock.postClearSince + 50 * s.cfg.tUnitMs ≤ (resumePostClear s).clock.now := by
  simpa [doc, State.postClearEnd] using add_le_resumeTime ..

/-- A STATUS clear that returned `Ok` is the sensor's last one, where none lies ahead (R153, R164). -/
theorem sensorAfter_clearedAt_of_clear {a : Config.SessionAnswer} (hok : a.outcome = .ok) {x : Sensor} {now : Nat}
    (hc : ∀ c, x.clearedAt = some c → c ≤ now) (early : Bool) :
    (sensorAfter .w doc.statusReg doc.statusClearVal early now a x).clearedAt = some now := by
  cases hx : x.clearedAt with
  | none => simp [sensorAfter, clearedAfter, surelyCleared, hok, hx, lastClear]
  | some c => simpa [sensorAfter, clearedAfter, surelyCleared, hok, hx, lastClear] using hc c hx

/-- T_POSTCLEAR time units after its last clear the sensor has settled (R164). -/
theorem sensorSettles_over {p : Config.Params} {x : Sensor} {c t : Nat} (hx : x.clearedAt = some c)
    (h : c + 50 * p.tUnitMs ≤ t) : sensorSettles p x t = false := by
  rw [sensorSettles, hx]
  exact decide_eq_false (Nat.not_lt.2 h)

/-- In the post-clear delay the moves of a session leave the SLC as it is: it awaits no result. -/
theorem sessionStep_slc_of_postClear {s : State} (hst : s.slc.stage = .postClear) (k : FrameKind) :
    (sessionStep k s).slc = s.slc := by
  cases ho : s.rpe.sessOpen with
  | false => rw [sessionStep_open ho, openSession_slc]
  | true => exact (sessionStep_trace ho (by simp [hst])).1

/-- In the post-clear delay only the timing primitive and a reset have a move that ends it: the SLC has none of its own,
and an engine that accepts a read begins a report cycle (R119 to R121, R172). -/
theorem StepEffect.slc_of_postClear {who : Config.Agent} {s s' : State} (he : StepEffect who s s')
    (hb : s.slc.lcBusy = true) (hst : s.slc.stage = .postClear) (ht : who ≠ .postClearTimer) (hr : who ≠ .reset) :
    s'.slc = s.slc ∨ (s.slc.lcState = .flagsCleared ∧ s'.slc = { s.slc with lcState := .ready }) := by
  cases he with
  | stay => exact .inl rfl
  | accept op =>
    cases op with
    | write => left; simp
    | read =>
      by_cases hl : s.slc.lcState = .flagsCleared
      · exact .inr ⟨hl, by simp [lcAfterAccept_read, hl]⟩
      · left; simp [lcAfterAccept_read, hl]
  | session k => exact .inl (sessionStep_slc_of_postClear hst k)
  | slcIssue _ _ _ hs => rw [hst] at hs; cases hs
  | slcStart _ _ _ hf => rw [hb] at hf; cases hf
  | configureStart _ _ hf => rw [hb] at hf; cases hf
  | configure _ _ hs => rw [hst] at hs; cases hs
  | resumeSettle => left; simp
  | resumePostClear hw => exact absurd hw ht
  | host _ _ he => exact .inl he.slc
  | reset hw => exact absurd hw hr

/-- A move of a machine whose SLC is busy takes no word from the SLC's port (R21). -/
theorem StepEffect.holds_slc_words {who : Config.Agent} {s s' : State} (he : StepEffect who s s')
    (hb : s.slc.lcBusy = true) : ∃ ws, s'.ports.slc = s.ports.slc ++ ws := by
  cases he with
  | session k => exact ⟨[], by simp [sessionStep_ports_cfg]⟩
  | slcStart _ _ _ hf => rw [hb] at hf; cases hf
  | configureStart _ _ hf => rw [hb] at hf; cases hf
  | configure => exact ⟨[], by simp [configure_rest]⟩
  | host _ _ he =>
    obtain ⟨a, b, hab⟩ := he.ports
    exact ⟨b, by rw [hab]⟩
  | _ => exact ⟨[], by simp⟩

/-- In the post-clear delay the SLC's own turn does nothing (R119, R21). -/
theorem step_slc_of_postClear {s : State} (ht : s.turn = .slc) (hb : s.slc.lcBusy = true)
    (hst : s.slc.stage = .postClear) : step s = .next s.afterTurn := by
  simp [step_of_turn s ht, takeTurn, slcTurn, hb, hst]

/-! ### The statements -/

/-- Settles O26: the SLC's turn beside an idle engine is `configure`, beside a busy one nothing. -/
theorem initializeCompletes : Obligations.InitializeCompletes := by
  refine ⟨fun s ts hb hl hp ht => ?_, fun s hb hst ht => ⟨step_configuring_waits ht hb hst, fun hp => ?_⟩⟩
  · have ht' : (configureStart s).inputs.turns = .slc :: ts := by simpa using ht
    have hstep := step_configure (turn_cons _ ht') (by simp) (by simp) (by simpa using hp)
    rw [afterTurn_cons _ ht'] at hstep
    generalize hr : (configureStart s).setInputs { (configureStart s).inputs with turns := ts } = r at hstep
    have hconfig : r.config = s.config := State.config_congr (by simp [← hr]) (by simp [← hr])
    obtain ⟨hslc, htrace⟩ := configure_by_answers r
    obtain ⟨hports, hcfg, hclock, hhost, -⟩ := configure_rest r
    have hrpe : r.rpe = s.rpe := by simp [← hr]
    have hsensor : (configure r).sensor = sensorConfigured s.config s.sensor := by
      rw [configure_sensor, hconfig]; simp [← hr]
    refine ⟨_, _, execInitializeSensor_allowed hb hl, hstep, by simp [hl], by rw [hslc, hconfig],
      by rw [htrace, hconfig]; simp [← hr], fun hc => ?_, fun hc => ?_, fun hc => ?_, fun hc => ?_,
      by simp [hsensor, sensorConfigured], by simp [hsensor, sensorConfigured], hports.trans (by simp [← hr]),
      hclock.trans (by simp [← hr]), hcfg.trans (by simp [← hr]), hhost.trans (by simp [← hr])⟩
    · rw [configure_rpe_of_accepted (by rwa [hconfig]), hrpe]
    · rw [configure_rpe_of_rejected (by rwa [hconfig]) (by rwa [hrpe]), hrpe]
    · simp [hsensor, sensorConfigured, hc]
    · simp [hsensor, sensorConfigured, hc]
  · obtain ⟨hslc, htrace⟩ := configure_by_answers s.afterTurn
    exact ⟨_, step_configure ht hb hst hp, by rw [hslc], by rw [hslc], by simpa using htrace⟩

/-- Settles O27: the command is one `SlcWriteRun`, and a write of FEED_ENABLE that returned `Ok` is taken. -/
theorem enableDataFeedCompletes : Obligations.EnableDataFeedCompletes := by
  intro s ts hinv hb hl hp ht
  obtain ⟨t, u, w, x, hrun, -⟩ :=
    exists_slcWriteRun (op := .enableDataFeed) hinv hb (slcAllowed_enable_iff.2 hl) hp ht
  refine ⟨t, u, w, x, hrun.accepts, hrun.issues, hrun.opens, hrun.executes,
    ⟨hrun.busy_accepted, hrun.busy_issued, hrun.busy_opened, hrun.rpe_accepted, hrun.op_issued, hrun.phase_issued⟩,
    ?_, hrun.rpe, ?_, fun hok hn => ?_, hrun.ports, hrun.cfg, hrun.host⟩
  · rw [hrun.slc, Slc.afterWrite_enable]
  · rw [hrun.trace, slcEventAfterWrite_enable]
    rfl
  · rw [hrun.sensor, hn]
    exact sensorAfter_reg_of_taken (writeTaken_of_ok (by decide) (by decide) hok) (.inl (by decide)) _ _ _

/-- Settles O28: the command is one `SlcWriteRun`, then the timing primitive's turn ends the delay asked for at
its end. -/
theorem clearStatusFlagsCompletes : Obligations.ClearStatusFlagsCompletes := by
  intro s ts hinv hb hl hp hok ht
  obtain ⟨t, u, w, x, hrun, hturns⟩ :=
    exists_slcWriteRun (op := .clearStatusFlags) hinv hb (slcAllowed_clear_iff.2 hl) hp ht
  have hslc : x.slc = { s.slc with lcBusy := true, stage := .postClear } := by rw [hrun.slc, hok]; rfl
  have hrpe : x.rpe =
      { opR := .write, addrR := 0x02#7, valR := 0x00#8, phase := .idle, sessOpen := false,
        resValid := true, resCode := .ok, hiR := none, loR := none } := by rw [hrun.rpe, hok]; rfl
  have hend := step_postClearTimer (turn_cons x hturns) (by rw [hslc]) (by rw [hrpe]) (by rw [hrpe])
  have hdelay : x.clock.now + 50 * s.cfg.tUnitMs ≤ (resumePostClear x.afterTurn).clock.now := by
    simpa [hrun.postClearSince rfl hok, hrun.cfg] using postClearEnd_le_resumePostClear x.afterTurn
  refine ⟨t, u, w, x, _, hrun.accepts, hrun.issues, hrun.opens, hrun.executes, hend,
    ⟨hrun.busy_accepted, hrun.busy_issued, hrun.busy_opened, by rw [hslc], by rw [hslc], by rw [hrpe], by rw [hrpe]⟩,
    by simp, by simpa using hrpe, ?_, hdelay, ?_, fun hc => ?_, by simp [hrun.ports],
    by simp [hrun.cfg], by simp [hrun.host]⟩
  · simp [hrun.trace, hok, frameCalls, slcEventAfterWrite, sessionResult, outcomeResult, slcWrite, ptrW, doc,
      SlcOp.command]
  · rw [hrun.now]
    exact Nat.add_le_add_left (sessionMs_le _) _
  · have hcleared : (resumePostClear x.afterTurn).sensor.clearedAt = some x.clock.now := by
      rw [resumePostClear_sensor, State.afterTurn_sensor, hrun.sensor, hrun.now]
      exact sensorAfter_clearedAt_of_clear hok (by rwa [hrun.now] at hc) _
    exact ⟨hcleared, sensorSettles_over hcleared (by simpa [hrun.cfg] using hdelay)⟩

/-- Settles O29: the command is one `SlcWriteRun`, and a failed write takes the path without a suspension. -/
theorem clearStatusFlagsFails : Obligations.ClearStatusFlagsFails := by
  intro s ts hinv hb hl hp hfail ht
  obtain ⟨t, u, w, x, hrun, -⟩ :=
    exists_slcWriteRun (op := .clearStatusFlags) hinv hb (slcAllowed_clear_iff.2 hl) hp ht
  refine ⟨t, u, w, x, hrun.accepts, hrun.issues, hrun.opens, hrun.executes, ?_, hrun.rpe, ?_⟩
  · rw [hrun.slc, Slc.afterWrite_of_failed hfail, lcAfterFailure_clear]
  · rw [hrun.trace, slcEventAfterWrite_of_failed hfail]
    rfl

/-- Settles O32: no other agent's move ends the delay, and a busy SLC holds the words at its port. -/
theorem onlyTheTimerEndsThePostClearDelay : Obligations.OnlyTheTimerEndsThePostClearDelay := by
  intro s s' hb hst ht hr hs
  have he := step_effect hs
  have hwords : ∃ ws, s'.ports.slc = s.ports.slc ++ ws := by simpa using he.holds_slc_words (by simpa using hb)
  have hown : s.turn = .slc → s'.rpe = s.rpe ∧ s'.trace = s.trace := fun hslc => by
    rw [step_slc_of_postClear hslc hb hst, Host.Outcome.next.injEq] at hs
    simp [← hs]
  rcases he.slc_of_postClear (by simpa using hb) (by simpa using hst) ht hr with h | ⟨hl, h⟩
  · rw [State.afterTurn_slc] at h
    exact ⟨by rw [h, hb], by rw [h, hst], .inl (by rw [h]), hwords, hown⟩
  · rw [State.afterTurn_slc] at hl h
    exact ⟨by rw [h, hb], by rw [h, hst], .inr ⟨hl, by rw [h]⟩, hwords, hown⟩

/-- Settles O30: a free SLC accepts what its state allows, and `configureStart` and `slcStart` have the stated frame. -/
theorem slcAcceptanceChangesTheSlcAlone : Obligations.SlcAcceptanceChangesTheSlcAlone := by
  refine fun s hb => ⟨fun hl => ⟨_, execInitializeSensor_allowed hb hl, ?_⟩,
    fun hl => ⟨_, presentSlc_allowed hb (slcAllowed_enable_iff.2 hl), ?_⟩,
    fun hl => ⟨_, presentSlc_allowed hb (slcAllowed_clear_iff.2 hl), ?_⟩⟩
  · simp
  · simp [SlcOp.command]
  · simp [SlcOp.command]

/-- Settles O31: a free SLC refuses what its state does not allow, and a busy one holds the command's word. -/
theorem slcRefusesWhatItsStateDoesNotAllow : Obligations.SlcRefusesWhatItsStateDoesNotAllow := by
  refine fun s => ⟨fun hb => ⟨execInitializeSensor_refused hb,
    fun hl => presentSlc_refused hb (mt slcAllowed_enable_iff.1 hl), fun hl => presentSlc_refused hb ?_⟩,
    fun hb => ⟨execInitializeSensor_busy hb, presentSlc_busy hb .enableDataFeed, presentSlc_busy hb .clearStatusFlags⟩⟩
  rw [slcAllowed_clear_iff]
  rcases hl with hl | hl | hl <;> simp [hl]

end Sys2Proof.Machine
end

section
/-! Errors and the deadline: what a session that failed leaves of its command, and that no party's move brings the clock
beyond the deadline of an open session (R131, R132, R134, R138, R162, R171). -/

namespace Sys2Proof.Machine

/-! ### The end of an open session -/

/-- The engine's registers after a session of any kind that failed: the error is the result, and there are no bytes
(R131, R134). -/
theorem sessionStep_rpe_of_failed {k : FrameKind} {s : State} (ho : s.rpe.sessOpen = true)
    (hfail : s.session.outcome ≠ .ok) :
    (sessionStep k s).rpe = { s.rpe with
      sessOpen := false, phase := .idle, resValid := true, resCode := outcomeCode s.session.outcome,
      hiR := none, loR := none } := by
  simp [sessionStep_rpe ho, hfail]

/-- An executed session is closed, whatever its outcome (R18). -/
theorem sessionStep_closed {s : State} (k : FrameKind) (ho : s.rpe.sessOpen = true) :
    (sessionStep k s).rpe.sessOpen = false := by
  rw [sessionStep_rpe ho]; split <;> rfl

/-- Where the invariant holds the session that is open ends within its deadline (R132, R162): it has not run out yet,
and the session takes no longer. -/
theorem sessionStep_now_le_deadline {s : State} (k : FrameKind) (h : s.Inv) (ho : s.rpe.sessOpen = true) :
    (sessionStep k s).clock.now ≤ s.clock.sessionSince + doc.tDeadlineMs := by
  obtain ⟨_, _, _, _, _, hnow⟩ := sessionStep_rest (k := k) ho
  obtain ⟨_, hdeadline⟩ := h.open_in_deadline ho
  calc (sessionStep k s).clock.now
      = s.sessionEnd := hnow
    _ ≤ max s.clock.now (s.clock.sessionSince + doc.tDeadlineMs) := s.sessionEnd_le
    _ = s.clock.sessionSince + doc.tDeadlineMs := Nat.max_eq_right hdeadline

/-! ### What other parties do in a session phase -/

/-- A move in a session phase is the session's own next step, or one that opens no session, leaves the opening's time
and takes only time that a suspension may take beside the session (R132, R171). -/
theorem StepEffect.in_session_phase {who : Config.Agent} {s s' : State} {k : FrameKind} (he : StepEffect who s s')
    (hk : s.rpe.phase.frame = some k) :
    s' = sessionStep k s ∨
      (s'.clock.sessionSince = s.clock.sessionSince ∧ (s'.rpe.sessOpen = true → s.rpe.sessOpen = true) ∧
        (s'.clock.now = s.clock.now ∨ s.mayReach s'.clock.now = true)) := by
  have hbusy : s.rpe.phase ≠ .idle := fun hp => by simp [hp, Phase.frame] at hk
  cases he with
  | session k' _ hk' =>
    obtain rfl : k = k' := Option.some.inj (hk.symm.trans hk')
    exact .inl rfl
  | accept _ _ _ _ _ hp => exact absurd hp hbusy
  | slcIssue _ _ _ _ hp => exact absurd hp hbusy
  | configure _ _ _ hp => exact absurd hp hbusy
  | resumeSettle _ hp => simp [hp, Phase.frame] at hk
  | stay => exact .inr ⟨rfl, id, .inl rfl⟩
  | slcStart => right; simp
  | configureStart => right; simp
  | resumePostClear _ _ hr => exact .inr ⟨by simp, by simp, .inr (by simpa using hr)⟩
  | host _ _ he =>
    obtain ⟨_, _, hsince⟩ := he.since
    exact .inr ⟨hsince, by rw [he.rpe]; exact id, he.reach⟩
  | reset => right; simp [Rpe.reset]

/-- Until the session of a phase is opened no move takes time, and one that opens it counts from now (R132, R171). -/
theorem StepEffect.unopened_takes_no_time {who : Config.Agent} {s s' : State} {k : FrameKind}
    (he : StepEffect who s s') (hk : s.rpe.phase.frame = some k) (ho : s.rpe.sessOpen = false) :
    s'.clock.now = s.clock.now ∧ (s'.rpe.sessOpen = true → s'.clock.sessionSince = s.clock.now) := by
  rcases he.in_session_phase hk with rfl | ⟨_, hopen, hreach⟩
  · rw [sessionStep_open ho]; simp
  · refine ⟨?_, fun h => by simp [hopen h] at ho⟩
    rcases hreach with hnow | hreach
    · exact hnow
    · obtain ⟨_, htime⟩ := he.cfg_time
      exact Nat.le_antisymm (State.mayReach_unopened (by simp [hk]) ho hreach) htime

/-- While a session is open no move, its end included, brings the clock beyond its deadline or changes when it was
opened (R132, R162). -/
theorem StepEffect.open_within_deadline {who : Config.Agent} {s s' : State} {k : FrameKind}
    (he : StepEffect who s s') (h : s.Inv) (hk : s.rpe.phase.frame = some k) (ho : s.rpe.sessOpen = true) :
    s'.clock.now ≤ s.clock.sessionSince + doc.tDeadlineMs ∧
      (s'.rpe.sessOpen = true → s'.clock.sessionSince = s.clock.sessionSince) := by
  rcases he.in_session_phase hk with rfl | ⟨hsince, _, hreach⟩
  · exact ⟨sessionStep_now_le_deadline k h ho, fun hopen => by simp [sessionStep_closed k ho] at hopen⟩
  · obtain ⟨_, htime⟩ := he.cfg_time
    obtain ⟨_, hdeadline⟩ := Clock.InDeadline.reached h.open_in_deadline hsince htime hreach ho
    exact ⟨hsince ▸ hdeadline, fun _ => hsince⟩

/-! ### The statements -/

/-- Settles O18: the engine's turn executes the session, and the failed session's registers are
`sessionStep_rpe_of_failed`. -/
theorem failedSessionCompletesWithItsError : Obligations.FailedSessionCompletesWithItsError := by
  intro s k ht hk ho hfail
  have ho' : s.afterTurn.rpe.sessOpen = true := by simpa using ho
  obtain ⟨_, _, hports, hcfg, _⟩ := sessionStep_rest (k := k) ho'
  refine ⟨_, step_rpe_in_session ht hk, ?_⟩
  rw [sessionStep_rpe_of_failed ho' hfail, hports, hcfg]
  simpa [doc] using fun h : s.Inv => sessionStep_now_le_deadline k h.afterTurn ho'

/-- Settles O50: a step is some agent's move after the turn is taken, and no move passes the deadline. -/
theorem sessionPhaseEndsWithinItsDeadline : Obligations.SessionPhaseEndsWithinItsDeadline := by
  intro s s' k h hk hs
  have he := step_effect hs
  have hk' : s.afterTurn.rpe.phase.frame = some k := by simpa using hk
  refine ⟨fun ho => ?_, fun ho => ?_⟩
  · simpa using he.unopened_takes_no_time hk' (by simpa using ho)
  · simpa [doc] using he.open_within_deadline h.afterTurn hk' (by simpa using ho)

end Sys2Proof.Machine
end

section
/-! The block's reset, the edges of `lc_state`, and the sensor that settles after a STATUS clear (R115, R150, R152 to
R154, R164). -/

namespace Sys2Proof.Machine

/-! ### Reset -/

/-- Outside a transaction a reset of the block leaves the platform's two configurations. -/
theorem sensorAtReset_of_not_inFlight (a : Config.ResetAnswer) (x : Sensor) :
    (sensorAtReset false a x).busConfigured = x.busConfigured ∧ (sensorAtReset false a x).pinIsInput = x.pinIsInput :=
  ⟨rfl, rfl⟩

theorem step_reset {s : State} (ht : s.turn = .reset) : step s = .next (blockReset s.afterTurn) := by
  rw [step_of_turn s ht, takeTurn]

/-! ### The edges of `lc_state` -/

/-- No edge leaves `Terminal` (R152). -/
@[simp] theorem lcEdge_terminal (l : LcState) : lcEdge .terminal l = false := rfl

/-- No edge leads to `Uninitialized` (R152). -/
@[simp] theorem lcEdge_uninitialized (l : LcState) : lcEdge l .uninitialized = false := by cases l <;> rfl

/-- Acceptance by the engine keeps `lc_state` or begins a report cycle (R120). -/
theorem lcAfterAccept_edge (op : RpeOp) (l : LcState) :
    lcAfterAccept op l = l ∨ lcEdge l (lcAfterAccept op l) = true := by
  cases op with
  | write => exact .inl (lcAfterAccept_write l)
  | read =>
    rw [lcAfterAccept_read]
    split
    · rename_i hl; exact .inr (by rw [hl]; rfl)
    · exact .inl rfl

/-- The end of the write of an SLC command that the lifecycle state allows keeps `lc_state` or takes an edge (R117,
R118, R122, R123). -/
theorem Slc.afterWrite_edge {op : SlcOp} {c : Slc} (ha : slcAllowed op c.lcState = true) (o : Config.SessionOutcome) :
    (c.afterWrite op o).lcState = c.lcState ∨ lcEdge c.lcState (c.afterWrite op o).lcState = true := by
  cases op with
  | enableDataFeed =>
    right
    rw [Slc.afterWrite_enable, slcAllowed_enable_iff.1 ha]
    cases o <;> rfl
  | clearStatusFlags =>
    by_cases ho : o = .ok
    · left; rw [ho]; rfl
    · rw [Slc.afterWrite_of_failed ho, lcAfterFailure_clear]
      by_cases hl : c.lcState = .feedEnabled
      · right; simp [hl, lcEdge]
      · left; simp [hl]

/-- A step inside a session keeps `lc_state` or takes an edge: it moves the SLC only where that awaits its own write's
result (R117, R118). -/
theorem sessionStep_lcState_edge {k : FrameKind} {s : State} (h : s.Inv) (hk : s.rpe.phase.frame = some k) :
    (sessionStep k s).slc.lcState = s.slc.lcState ∨
      lcEdge s.slc.lcState (sessionStep k s).slc.lcState = true := by
  cases ho : s.rpe.sessOpen with
  | false => left; rw [sessionStep_open ho, openSession_slc]
  | true =>
    by_cases hst : ∃ op, s.slc.stage = .await op
    · obtain ⟨op, hop⟩ := hst
      obtain ⟨hp, _⟩ := h.await_own op hop
      obtain rfl : FrameKind.w = k := by simpa [hp, Phase.frame] using hk
      obtain ⟨hslc, _⟩ := sessionStep_of_await ho hop
      rw [hslc]
      exact Slc.afterWrite_edge (h.await_allowed op hop) _
    · obtain ⟨hslc, _⟩ := sessionStep_trace (k := k) ho (not_exists.1 hst)
      exact .inl (by rw [hslc])

/-- The post-clear delay of an allowed `clearStatusFlags` ends in `FlagsCleared` (R118). -/
theorem flagsCleared_edge {l : LcState} (ha : slcAllowed .clearStatusFlags l = true) :
    .flagsCleared = l ∨ lcEdge l .flagsCleared = true := by
  rcases slcAllowed_clear_iff.1 ha with rfl | rfl | rfl
  · exact .inr rfl
  · exact .inr rfl
  · exact .inl rfl

/-- Where the invariant holds, each move but a reset leaves `lc_state` or takes one edge (R115). -/
theorem StepEffect.lcState_edge {who : Config.Agent} {s s' : State} (he : StepEffect who s s') (h : s.Inv)
    (hw : who ≠ .reset) :
    s'.slc.lcState = s.slc.lcState ∨ lcEdge s.slc.lcState s'.slc.lcState = true := by
  cases he with
  | accept op => simpa using lcAfterAccept_edge op s.slc.lcState
  | session k _ hk => exact sessionStep_lcState_edge h hk
  | configure _ _ hst =>
    right
    obtain ⟨_, _, _, _, _, _, _, hl⟩ := configure_rest s
    rw [h.configuring_allowed hst]
    rcases hl with hl | hl <;> rw [hl] <;> rfl
  | resumePostClear _ hst => simpa using flagsCleared_edge (h.postClear_allowed hst)
  | host _ _ he => exact .inl (by rw [he.slc])
  | reset hr => exact absurd hr hw
  | _ => exact .inl (by simp)

/-! ### The sensor settling after a STATUS clear -/

theorem surelyCleared_iff {k : FrameKind} {addr : RegAddr} {v : Byte} {a : Config.SessionAnswer} :
    surelyCleared k addr v a = true ↔ k = .w ∧ addr = 0x02#7 ∧ v = 0x00#8 ∧ a.outcome = .ok := by
  simp only [surelyCleared, Bool.and_eq_true, decide_eq_true_iff, and_assoc]
  rfl

theorem perhapsCleared_iff {k : FrameKind} {addr : RegAddr} {early : Bool} :
    perhapsCleared k addr early = true ↔ early = true ∨ framable addr = false ∨ k = .w ∧ addr = 0x02#7 := by
  simp only [perhapsCleared, Bool.or_eq_true, Bool.and_eq_true, Bool.not_eq_true', decide_eq_true_iff, or_assoc]
  rfl

/-- After a session that was a STATUS clear for the sensor, the last clear ended with it, or lies ahead (R153, R164). -/
theorem sensorAfter_clearedAt_of_cleared {k : FrameKind} {addr : RegAddr} {v : Byte} {early : Bool}
    {a : Config.SessionAnswer}
    (h : surelyCleared k addr v a = true ∨ perhapsCleared k addr early = true ∧ a.cleared = true) (now : Nat)
    (x : Sensor) : (sensorAfter k addr v early now a x).clearedAt = some (lastClear now x.clearedAt) :=
  if_pos (by simpa using h)

/-- After a session that was none, the last clear is the one before it. -/
theorem sensorAfter_clearedAt_of_not_cleared {k : FrameKind} {addr : RegAddr} {v : Byte} {early : Bool}
    {a : Config.SessionAnswer} (hs : ¬ surelyCleared k addr v a = true) (hp : ¬ perhapsCleared k addr early = true)
    (now : Nat) (x : Sensor) : (sensorAfter k addr v early now a x).clearedAt = x.clearedAt :=
  if_neg (by simp [hs, hp])

/-- Until T_POSTCLEAR time units after its last clear the sensor settles (R164). -/
theorem sensorSettles_before {p : Config.Params} {x : Sensor} {c t : Nat} (hx : x.clearedAt = some c)
    (h : t < c + 50 * p.tUnitMs) : sensorSettles p x t = true := by
  rw [sensorSettles, hx]
  exact decide_eq_true h

/-- A session that came too early leaves the read pointer wherever the oracle says (R164, U16). -/
theorem sensorAfter_readPtr_of_early (k : FrameKind) (addr : RegAddr) (v : Byte) (now : Nat)
    (a : Config.SessionAnswer) (x : Sensor) : (sensorAfter k addr v true now a x).readPtr = a.ptr := rfl

/-- A write session that came too early and was not latched is not taken, whatever its outcome. -/
theorem writeTaken_early_of_not_latched {a : Config.SessionAnswer} (hl : a.latched = false) (addr : RegAddr) :
    writeTaken addr true a = false := by
  simp [writeTaken, hl]

/-- A session of any kind that came too early and was not latched, on a sensor that changes nothing of its own accord,
leaves RAP space as it was. -/
theorem sensorAfter_regs_of_early_not_latched {a : Config.SessionAnswer} (hq : a.quiet) (hl : a.latched = false)
    (k : FrameKind) (addr : RegAddr) (v : Byte) (now : Nat) (x : Sensor) :
    (sensorAfter k addr v true now a x).regs = x.regs := by
  obtain ⟨hdrift, hlater⟩ := hq
  rcases regsAfter_cases k addr v true a x.regs hdrift hlater with ⟨_, ht, _⟩ | ⟨_, hm⟩
  · simp [writeTaken_early_of_not_latched hl] at ht
  · exact hm

/-- The time and the parameters after the turn that executes the open session. -/
theorem step_executed_now_cfg {s s' : State} {k : FrameKind} (ht : s.turn = .rpe) (hk : s.rpe.phase.frame = some k)
    (ho : s.rpe.sessOpen = true) (hs : step s = .next s') :
    s'.clock.now = s.afterTurn.sessionEnd ∧ s'.cfg = s.cfg := by
  rw [step_rpe_in_session ht hk, Host.Outcome.next.injEq] at hs
  obtain ⟨_, _, _, hcfg, _, hnow⟩ := sessionStep_rest (k := k) (s := s.afterTurn) (by simpa using ho)
  rw [← hs]
  exact ⟨hnow, hcfg.trans s.afterTurn_cfg⟩

/-! ### The statements -/

/-- Settles O34: each move takes an edge at most, and none leads out of `Terminal` or into `Uninitialized`. -/
theorem lcStateMovesAlongItsEdgesOnly : Obligations.LcStateMovesAlongItsEdgesOnly := by
  intro s s' h hs hr
  have hedge : s'.slc.lcState = s.slc.lcState ∨ lcEdge s.slc.lcState s'.slc.lcState = true := by
    simpa using (step_effect hs).lcState_edge h.afterTurn hr
  refine ⟨hedge, fun hl => ?_, fun hl => ?_⟩
  · rcases hedge with hkept | hmoved
    · exact hkept.trans hl
    · simp [hl] at hmoved
  · rcases hedge with hkept | hmoved
    · exact hkept.symm.trans hl
    · simp [hl] at hmoved

/-- Settles O49: `step_executed_sensor` names the sensor afterwards; each clause is a rule of `sensorAfter`. -/
theorem earlySessionHasTheOraclesEffect : Obligations.EarlySessionHasTheOraclesEffect := by
  intro s s' k ht hk ho hs
  obtain ⟨hnow, hcfg⟩ := step_executed_now_cfg ht hk ho hs
  rw [step_executed_sensor ht hk ho hs, hcfg, ← hnow]
  refine ⟨fun hclear n => ?_, fun hf hn he => ?_, fun he hq => ?_⟩
  · have hcleared := sensorAfter_clearedAt_of_cleared
      (early := sensorSettles s.cfg s.sensor s.clock.sessionSince)
      (hclear.imp surelyCleared_iff.2 fun ⟨hf, hc⟩ => ⟨perhapsCleared_iff.2 (.inr (.inl hf)), hc⟩)
      s'.clock.now s.sensor
    refine ⟨fun hlt => sensorSettles_before hcleared ?_, fun hpast hle => sensorSettles_over hcleared ?_⟩
    · exact Nat.lt_of_lt_of_le hlt (Nat.add_le_add_right (le_lastClear _ _) _)
    · rwa [lastClear_of_past hpast]
  · refine sensorAfter_clearedAt_of_not_cleared (fun hsure => ?_) (fun hmay => ?_) _ _
    · obtain ⟨hw, haddr, _⟩ := surelyCleared_iff.1 hsure
      exact hn hw haddr
    · rcases perhapsCleared_iff.1 hmay with h | h | ⟨hw, haddr⟩
      · simp [he] at h
      · simp [hf] at h
      · exact hn hw haddr
  · rw [he]
    refine ⟨sensorAfter_readPtr_of_early .., fun hl => sensorAfter_regs_of_early_not_latched hq hl .., ?_⟩
    rintro hl rfl hf
    obtain ⟨_, hlater⟩ := hq
    exact sensorAfter_reg_of_taken (writeTaken_of_latched hf hl _) (.inr hlater) ..

/-- Settles O43: the turn is `blockReset`, field by field. -/
theorem blockResetSetsTheBlockAndKeepsHostPortsAndTime :
    Obligations.BlockResetSetsTheBlockAndKeepsHostPortsAndTime := by
  refine fun s ht => ⟨_, step_reset ht, blockReset_rpe _, blockReset_slc _, fun hp => ?_, ?_⟩
  · rw [blockReset_sensor, State.busy_eq_false.2 (by simpa using hp), State.afterTurn_sensor]
    exact sensorAtReset_of_not_inFlight _ _
  · simp

end Sys2Proof.Machine
end
